-- ==== Sys2Proof/Word.lean ====
section
/-! DEFINITION. The machine's data types: bytes, 32-bit words, binary64 patterns and complex samples
(spec/00_scope.md R7, R11, R13; spec/10_state.md R41). The operations on them stand in Machine/Float64.lean. -/

namespace Sys2Proof

/-- One byte of DMEM (R100). -/
abbrev Byte := BitVec 8

/-- A 32-bit word: a descriptor word, an address or a control register (R141, R46). -/
abbrev Word := BitVec 32

/-- The bit pattern of an IEEE 754 binary64 value (R41); `f64` and `bits64` of R12 are the identity on it. -/
abbrev F64 := BitVec 64

/-- A 4-bit descriptor field, UNIT or MODE (R141). -/
abbrev Nib := BitVec 4

/-- A CPX, the "ordered pair (re, im) of double-precision floats" of R41. -/
structure Cpx where
  re : F64
  im : F64
deriving DecidableEq, Repr

/-- `(+0.0, +0.0)`. -/
def Cpx.zero : Cpx := ⟨0#64, 0#64⟩

/-- The binary64 operations that can meet a NaN operand (93 item I2). -/
inductive FloatOp where
  | add
  | sub
  | mul
  | div
  | sqrt
deriving DecidableEq, Repr

end Sys2Proof
end

