-- ==== Sys2Proof/Config.lean ====
section
/-! DEFINITION. What is fixed when the block is built (spec/00_scope.md R7-R10, R13; spec/43_halfband_cic3.md R280):
constants, capacity limits at the defaults the spec takes for this hardware, and the open parameters, which are
opaque constants with no value that Lean can see. -/

namespace Sys2Proof.Config

/-! ## Unit counts and capacity limits (R9), each at its default (DESIGN CHOICE, log 1) -/

/-- `log2(DMEM_BYTES)` (R9, R54). -/
def dmemLog2 : Nat := 20
/-- `DMEM_BYTES` (R9). -/
def dmemBytes : Nat := 2 ^ dmemLog2
def chainUnits : Nat := 2
def hbUnits : Nat := 2
def dlUnits : Nat := 4
def firUnits : Nat := 4
def iirUnits : Nat := 4
def gzUnits : Nat := 4
def ncoUnits : Nat := 2
def maxStages : Nat := 32
def chMaxIn : Nat := 65536
def hbMaxTaps : Nat := 255
def dlMaxSize : Nat := 4096
def firMaxTaps : Nat := 1024
def firMaxBlock : Nat := 8192
def iirMaxOrder : Nat := 16
def iirMaxSections : Nat := 16

/-! ## Constants (R7, R13, R2) -/

/-- `ID` (R2, R52). -/
def idValue : Word := 0x48424443#32
/-- `VERSION` (R2, R52). -/
def versionValue : Word := 0x00000001#32
/-- `MIN_RATE`, the chain floor when no output rate is given (R7). -/
def minRate : Nat := 15000
/-- `EPS`, the division guard, the binary64 value nearest 1e-10 (R7, R222). -/
def eps : F64 := 0x3DDB7CDFD9D7BDBB#64
/-- `WPASS[0]`, the binary64 value nearest 0.003 (R7, R280). -/
def wpassCic3 : F64 := 0x3F689374BC6A7EFA#64
/-- `GZ_RATIO_DEFAULT`, 1.75 (R7). -/
def gzRatioDefault : F64 := 0x3FFC000000000000#64
/-- `GZ_ALPHA_DEFAULT`, the binary64 value nearest 0.01 (R7). -/
def gzAlphaDefault : F64 := 0x3F847AE147AE147B#64
/-- `TWO_PI` (R13). -/
def twoPi : F64 := 0x401921FB54442D18#64
/-- `PI` (R13). -/
def pi : F64 := 0x400921FB54442D18#64

/-! ## Open parameters (R8, R10): opaque, with no body

The definitions that use them (Machine/Float64.lean, Machine/Halfband.lean, Machine/Fir.lean) impose the properties
the spec requires of them and nothing else. -/

/-- `NAN_RESULT` before it is made a NaN (R10, 93 item I1; log 5). -/
opaque nanResultBits : F64
/-- The NaN an operation with a NaN operand answers, before it is made a NaN (93 item I2; log 6). -/
opaque nanOperandBits : FloatOp → F64 → F64 → F64
/-- `SIN` away from zero (R10, 93 item I3; log 7). -/
opaque sinValue : F64 → F64
/-- `COS` away from zero (R10, 93 item I4; log 7). -/
opaque cosValue : F64 → F64
/-- `ATAN2(y, x)` (R10, 93 item I5; log 7). -/
opaque atan2Value : F64 → F64 → F64
/-- `WPASS[d]` for `d` in 1..13, before R281(d) is imposed (R8; log 9). -/
opaque wpassValue : Nat → F64
/-- `HB_COEFF[d][k]` for `d` in 1..13, before R281(a)-(c) are imposed (R8; log 9). -/
opaque hbCoeffValue : Nat → Nat → F64
/-- Where an implementation's `FD_CONV` rounds output `j` otherwise than the reference sum of R352 does, its value;
`none` where it agrees with the reference. Arguments: taps, `xtail`, the block, `j` (R10, 93 item I6). Machine/Fir.lean
ties the value to the ideal sum (log 8). -/
opaque fdDeviation : List F64 → List Cpx → List Cpx → Nat → Option Cpx
/-- How far an implementation's `FD_CONV` may round away from the ideal sum, as a fraction of the block's scale in units
of 2^-52: DOC's "match within tolerance" has no number (R352; log 8). -/
opaque fdRelativeError : Nat
/-- How far it may round away from the ideal sum through underflow, in units of 2^-1074 (R352; log 8). -/
opaque fdAbsoluteError : Nat

end Sys2Proof.Config
end

