-- ==== Sys2Proof/Machine/State.lean ====
section
/-! DEFINITION. The machine's state as plain data (spec/10_state.md), the outcomes a step can stop with, and the state
after reset (R75, R500). An array to which the spec gives a fixed capacity is held as the list of its entries in use;
every entry beyond them holds +0.0 in every state the block can reach (log 12). -/

namespace Sys2Proof.Machine

/-! ## Control registers (R46) -/

/-- The cause codes of R451, in the order of their numbers. Codes 10-255 are never raised. -/
inductive Cause where
  /-- 0: no fault since reset. -/
  | none
  /-- 1: `CP` is not a multiple of 64 at a fetch. -/
  | fetchMisaligned
  /-- 2: the descriptor is not wholly inside DMEM. -/
  | fetchRange
  /-- 3: `OPC` is not in R144. -/
  | illegalOpcode
  /-- 4: an unused or reserved field is non-zero. -/
  | reservedNonzero
  /-- 5: `UNIT` is not below the count of its kind. -/
  | badUnit
  /-- 6: a region address is not a multiple of its alignment. -/
  | operandMisaligned
  /-- 7: a region extends past `DMEM_BYTES`. -/
  | operandRange
  /-- 8: an operand value is outside its range. -/
  | badField
  /-- 9: the instance's `cfg` bit is 0. -/
  | unconfigured
deriving DecidableEq, Repr

/-- `STATUS` (R51); bits 31:4 are reserved and hold no state (R47). -/
structure Status where
  busy : Bool
  fault : Bool
  done : Bool
  aborted : Bool
deriving DecidableEq, Repr

/-- The four interrupt sources, as `IRQ_EN` (R59) and as `IRQ_PEND` (R60); bits 31:4 hold no state. -/
structure IrqBits where
  done : Bool
  fault : Bool
  signal : Bool
  abort : Bool
deriving DecidableEq, Repr

/-! ## Unit state banks (R65-R72) -/

/-- A delay line (R66). `size` is the ring's length. -/
structure DelayLine where
  cfg : Bool
  delay : Nat
  last : Nat
  ring : List Cpx
deriving DecidableEq, Repr

/-- The ring length of R66. -/
def DelayLine.size (l : DelayLine) : Nat := l.ring.length

/-- The cross-call state of one decimate-by-2 application of a design (R67). -/
structure PassState where
  /-- The last `T - 1` inputs of a FIR pass, the newest at the end. -/
  hist : List Cpx
  /-- The output phase of a FIR pass. -/
  ph : Fin 2
  xOdd : Cpx
  xEven : Cpx
  pend : Cpx
  hasPend : Bool
deriving DecidableEq, Repr

/-- Which pass semantics a stage has (R68). -/
inductive PassForm where
  | cic3
  | fir
deriving DecidableEq, Repr

/-- A stage's total decimation, 2 or 4 (R68, R69). -/
inductive Decim where
  | two
  | four
deriving DecidableEq, Repr

/-- A standalone stage's design: an index of the table R280, or DIRECT (R68). -/
inductive HbDesign where
  | table (d : Fin 14)
  | direct
deriving DecidableEq, Repr

/-- A standalone halfband stage (R68). `T` is the length of `coeff`. -/
structure Halfband where
  cfg : Bool
  form : PassForm
  design : HbDesign
  coeff : List F64
  wpass : F64
  decim : Decim
  pass0 : PassState
  pass1 : PassState
deriving DecidableEq, Repr

/-- The tap count `T` of R68, 0 for a CIC3 stage. -/
def Halfband.tapCount (h : Halfband) : Nat := h.coeff.length

/-- One stage of a decimator chain (R69). -/
structure Stage where
  design : Fin 14
  decim : Decim
  rateIn : F64
  pass0 : PassState
  pass1 : PassState
deriving DecidableEq, Repr

/-- A decimator chain (R69). `nstages` is the length of `stages`. -/
structure Chain where
  stages : List Stage
  achieved : F64
  trunc : Bool
deriving DecidableEq, Repr

/-- The stage count of R69. -/
def Chain.nstages (c : Chain) : Nat := c.stages.length

/-- Time domain or frequency domain (R70). -/
inductive FirMode where
  | td
  | fd
deriving DecidableEq, Repr

/-- A FIR engine (R70). `ntaps` is the length of `taps`; `xtail` holds the last `ntaps - 1` inputs, oldest first. -/
structure Fir where
  cfg : Bool
  mode : FirMode
  taps : List F64
  dl : Nat
  blk : Nat
  xtail : List Cpx
deriving DecidableEq, Repr

/-- The tap count of R70. -/
def Fir.ntaps (f : Fir) : Nat := f.taps.length

/-- The history of one recursion in one channel: the entry at the head is the previous input (`x`) or output (`y`),
`xh[1]` and `yh[1]` of R371. -/
structure Hist where
  x : List F64
  y : List F64
deriving DecidableEq, Repr

/-- A second-order section: its coefficients and its histories in the two channels (R71). -/
structure Section where
  b0 : F64
  b1 : F64
  b2 : F64
  a1 : F64
  a2 : F64
  re : Hist
  im : Hist
deriving DecidableEq, Repr

/-- The two forms of an IIR engine (R71). -/
inductive IirMode where
  | direct
  | cascade
deriving DecidableEq, Repr

/-- An IIR engine (R71). `order` is the length of `a`, `nsec` the length of `sections`. -/
structure Iir where
  cfg : Bool
  mode : IirMode
  /-- `b[0..order]`. -/
  b : List F64
  /-- `a[1..order]`. -/
  a : List F64
  re : Hist
  im : Hist
  sections : List Section
deriving DecidableEq, Repr

/-- The direct-form order of R71. -/
def Iir.order (g : Iir) : Nat := g.a.length

/-- The section count of R71. -/
def Iir.nsec (g : Iir) : Nat := g.sections.length

/-- The detector modes 0, 1, 2 (R72). -/
inductive GzMode where
  | single
  | threeTone
  | adaptive
deriving DecidableEq, Repr

/-- The input components 0, 1, 2 (R72, R393). -/
inductive GzInput where
  | re
  | im
  | mag
deriving DecidableEq, Repr

/-- One bin's coefficient and recursion state, `s1 = s[n-1]`, `s2 = s[n-2]` (R72, R391). -/
structure GzBin where
  coeff : F64
  s1 : F64
  s2 : F64
deriving DecidableEq, Repr

/-- A Goertzel detector (R72); `bin0`, `bin1`, `bin2` are the on, low and high bins. -/
structure Goertzel where
  cfg : Bool
  mode : GzMode
  nbin : Nat
  insel : GzInput
  bin0 : GzBin
  bin1 : GzBin
  bin2 : GzBin
  cnt : Nat
  k : F64
  lim : Nat
  bit : Bool
  dcnt : Nat
  toneAvg : F64
  noneAvg : F64
  thr : F64
  quiet : Nat
deriving DecidableEq, Repr

/-- An NCO mixer (R72). -/
structure Nco where
  cfg : Bool
  fs : F64
  inc : F64
  phase : F64
deriving DecidableEq, Repr

/-! ## Reset values of the banks (R66-R72) -/

def DelayLine.reset : DelayLine := ⟨false, 0, 0, []⟩

/-- The zero pass state with a history of `n` samples (R67). -/
def PassState.zero (n : Nat) : PassState :=
  ⟨List.replicate n Cpx.zero, 0, Cpx.zero, Cpx.zero, Cpx.zero, false⟩

def Halfband.reset : Halfband :=
  ⟨false, .cic3, .table 0, [], 0#64, .two, PassState.zero 0, PassState.zero 0⟩

def Chain.reset : Chain := ⟨[], 0#64, false⟩

def Fir.reset : Fir := ⟨false, .td, [], 0, 0, []⟩

/-- The zero histories of a recursion of order `p` (R71). -/
def Hist.zero (p : Nat) : Hist := ⟨List.replicate p 0#64, List.replicate p 0#64⟩

def Iir.reset : Iir := ⟨false, .direct, [], [], Hist.zero 0, Hist.zero 0, []⟩

def GzBin.reset : GzBin := ⟨0#64, 0#64, 0#64⟩

def Goertzel.reset : Goertzel :=
  ⟨false, .single, 0, .re, GzBin.reset, GzBin.reset, GzBin.reset, 0, 0#64, 0, false, 0, 0#64, 0#64, 0#64, 0⟩

def Nco.reset : Nco := ⟨false, 0#64, 0#64, 0#64⟩

/-! ## Memory (R100) -/

/-- DMEM: the bytes that differ from what an unlisted address reads as, by strictly rising address. -/
abbrev Memory := List Host.Cell

/-! ## The host's moves (R480) -/

/-- The moves of R480. A control-register access names its byte offset and its width in bytes. -/
inductive HostMove where
  | readCsr (offset : BitVec 8) (width : Nat)
  | writeCsr (offset : BitVec 8) (width : Nat) (value : Word)
  | readDmem (addr count : Nat)
  | writeDmem (addr : Nat) (bytes : List Byte)
  | observeIrq
  /-- Hardware reset (R500); `dmem` lists the bytes DMEM holds after it, which the spec leaves open. -/
  | hardwareReset (dmem : List Host.Cell)
deriving DecidableEq, Repr

/-- What the last read the host made returned (R480). -/
inductive HostResponse where
  | none
  | word (value : Word)
  | bytes (value : List Byte)
  | line (level : Bool)
deriving DecidableEq, Repr

/-! ## The state -/

/-- Everything the spec gives the block (10_state.md), and the host's side of R480 as the model's own last two
fields. -/
structure State where
  /-- `STATUS` (R51). -/
  status : Status
  /-- `CP` (R44). -/
  cp : Word
  /-- `LC` (R45). -/
  lc : Word
  /-- `CAUSE` (R55). -/
  cause : Cause
  /-- `FAULT_CP` (R56). -/
  faultCp : Word
  /-- `FAULT_INFO` (R57). -/
  faultInfo : Word
  /-- `LAST_COUNT` (R58). -/
  lastCount : Word
  /-- `IRQ_EN` (R59). -/
  irqEn : IrqBits
  /-- `IRQ_PEND` (R60). -/
  irqPend : IrqBits
  /-- `RETIRED_HI:RETIRED_LO` (R61). -/
  retired : BitVec 64
  /-- R73. -/
  abortReq : Bool
  /-- R73. -/
  sresetReq : Bool
  /-- `U.DL` (R66). -/
  dl : Vector DelayLine Config.dlUnits
  /-- `U.HB` (R68). -/
  hb : Vector Halfband Config.hbUnits
  /-- `U.CH` (R69). -/
  ch : Vector Chain Config.chainUnits
  /-- `U.FIR` (R70). -/
  fir : Vector Fir Config.firUnits
  /-- `U.IIR` (R71). -/
  iir : Vector Iir Config.iirUnits
  /-- `U.GZ` (R72). -/
  gz : Vector Goertzel Config.gzUnits
  /-- `U.NCO` (R72). -/
  nco : Vector Nco Config.ncoUnits
  /-- DMEM (R100). -/
  dmem : Memory
  /-- The MODEL's own field: the host's side of the coming steps, one slot a step; `none` leaves the step to the
  sequencer (log 14). -/
  inputs : List (Option HostMove)
  /-- The MODEL's own field: what the last host read returned (log 14). -/
  response : HostResponse
deriving DecidableEq, Repr

/-- The state after reset (R46, R75, R500). DMEM lists nothing (log 2); the host has no move waiting (log 14). -/
def State.reset : State where
  status := ⟨false, false, false, false⟩
  cp := 0#32
  lc := 0#32
  cause := .none
  faultCp := 0#32
  faultInfo := 0#32
  lastCount := 0#32
  irqEn := ⟨false, false, false, false⟩
  irqPend := ⟨false, false, false, false⟩
  retired := 0#64
  abortReq := false
  sresetReq := false
  dl := Vector.replicate Config.dlUnits DelayLine.reset
  hb := Vector.replicate Config.hbUnits Halfband.reset
  ch := Vector.replicate Config.chainUnits Chain.reset
  fir := Vector.replicate Config.firUnits Fir.reset
  iir := Vector.replicate Config.iirUnits Iir.reset
  gz := Vector.replicate Config.gzUnits Goertzel.reset
  nco := Vector.replicate Config.ncoUnits Nco.reset
  dmem := []
  inputs := []
  response := .none

/-! ## How a step can stop

A fault of the block (R460) is no stop: its entry is a next state. -/

/-- The stops for an access to an address that does not exist. -/
inductive Fault where
  /-- Raised by the host's DMEM moves for a byte range that does not lie in `0 .. DMEM_BYTES - 1` (R100). Safe: the
  spec gives such an access no effect (log 11). -/
  | hostOutsideDmem
deriving DecidableEq, Repr

/-- The accesses and instructions the model gives no transition. -/
inductive Refusal where
  /-- Raised by exec for an instruction that has no meaning yet. Safe: nothing follows from it. -/
  | notModelled (mnemonic : String)
  /-- Raised by the host's control-register moves for an access that is not an aligned 32-bit one. Safe: "a model
  refuses it" (R48, 93 item I9). -/
  | csrAccessShape
  /-- Raised by the host's DMEM moves while `STATUS.BUSY = 1`. Safe: "a model has no move for it" (R111, R481, 93
  item I10). -/
  | dmemWhileBusy
deriving DecidableEq, Repr

/-- The outcome of a command or a step. -/
abbrev Result := Host.Outcome State Fault Refusal

end Sys2Proof.Machine
end

