-- ==== Sys2Proof/Machine/Flags.lean ====
section
/-! DEFINITION. The bits of `STATUS`, `IRQ_EN` and `IRQ_PEND` (spec/10_state.md R51, R59, R60): their places in the
32-bit registers, write-1-to-clear, and the interrupt line (spec/60_exceptions.md R470). The block has no condition
codes and no arithmetic flags (R43). -/

namespace Sys2Proof.Machine

/-- Four named bits as a 32-bit register, bits 31:4 zero (R47). -/
def bitsWord (b3 b2 b1 b0 : Bool) : Word :=
  0#28 ++ BitVec.ofBool b3 ++ BitVec.ofBool b2 ++ BitVec.ofBool b1 ++ BitVec.ofBool b0

/-- `STATUS` as the host reads it (R51). -/
def statusWord (st : Status) : Word := bitsWord st.aborted st.done st.fault st.busy

/-- `IRQ_EN` or `IRQ_PEND` as the host reads it (R59, R60). -/
def irqWord (q : IrqBits) : Word := bitsWord q.abort q.signal q.fault q.done

/-- A host write to `IRQ_EN`: bits 3:0 are stored (R59, R480). -/
def irqOfWord (v : Word) : IrqBits := ⟨v.getLsbD 0, v.getLsbD 1, v.getLsbD 2, v.getLsbD 3⟩

/-- A host write to `STATUS`: FAULT, DONE and ABORTED are write-1-to-clear, BUSY is read-only (R47, R51). -/
def clearStatus (st : Status) (v : Word) : Status where
  busy := st.busy
  fault := st.fault && !v.getLsbD 1
  done := st.done && !v.getLsbD 2
  aborted := st.aborted && !v.getLsbD 3

/-- A host write to `IRQ_PEND`: every bit is write-1-to-clear (R47, R60). -/
def clearPending (q : IrqBits) (v : Word) : IrqBits where
  done := q.done && !v.getLsbD 0
  fault := q.fault && !v.getLsbD 1
  signal := q.signal && !v.getLsbD 2
  abort := q.abort && !v.getLsbD 3

/-- The interrupt output `IRQ = ((IRQ_PEND & IRQ_EN) & 0xF) != 0` (R470). -/
def irqLine (s : State) : Bool :=
  (s.irqPend.done && s.irqEn.done) || (s.irqPend.fault && s.irqEn.fault) ||
    (s.irqPend.signal && s.irqEn.signal) || (s.irqPend.abort && s.irqEn.abort)

/-- `IRQ_PEND.DONE <- 1` with the status bits of the end of a run by HALT (R201). -/
def haltFlags (s : State) : State :=
  { s with
    status := { s.status with busy := false, done := true }
    irqPend := { s.irqPend with done := true } }

/-- `IRQ_PEND.SIGNAL <- 1` (R206). -/
def signalFlag (s : State) : State := { s with irqPend := { s.irqPend with signal := true } }

/-- The code of a cause (R451). -/
def causeCode : Cause → Nat
  | .none => 0
  | .fetchMisaligned => 1
  | .fetchRange => 2
  | .illegalOpcode => 3
  | .reservedNonzero => 4
  | .badUnit => 5
  | .operandMisaligned => 6
  | .operandRange => 7
  | .badField => 8
  | .unconfigured => 9

/-- `CAUSE` as the host reads it: the code in bits 7:0, bits 31:8 zero (R55). -/
def causeWord (c : Cause) : Word := BitVec.ofNat 32 (causeCode c)

end Sys2Proof.Machine
end

