-- ==== Sys2Proof/Machine/Float64.lean ====
section
/-! DEFINITION. Binary64 arithmetic (spec/00_scope.md R12, spec/92_eei_decisions.md D3): each operation computed
exactly on integers and rounded once, to nearest with ties to even; subnormals kept; no flags. The details R12 leaves
to IEEE 754 (signs of zeros, overflow to infinity, which operations are invalid) follow that standard (PRESUMED,
log 26). A finite binary64 value is a whole number of units of 2^-1074, which is what makes exact integer arithmetic
possible. -/

namespace Sys2Proof.Machine

/-! ## Fields of the format -/

/-- The sign bit. -/
def signBit (x : F64) : Bool := decide (2 ^ 63 ≤ x.toNat)

/-- The pattern without its sign bit; its order is the order of the magnitudes. -/
def magBits (x : F64) : Nat := x.toNat % 2 ^ 63

/-- The magnitude pattern of an infinity. -/
def infBits : Nat := 2047 * 2 ^ 52

/-- `isnan` (R12). -/
def isNaN (x : F64) : Bool := decide (infBits < magBits x)

def isInf (x : F64) : Bool := magBits x == infBits

/-- `finite(x)` of R395: neither a NaN nor an infinity. -/
def isFinite (x : F64) : Bool := decide (magBits x < infBits)

/-- A zero of either sign. -/
def isZero (x : F64) : Bool := magBits x == 0

/-- The magnitude of a finite value in units of 2^-1074. -/
def unitsOf (x : F64) : Nat :=
  let e := magBits x / 2 ^ 52
  let f := magBits x % 2 ^ 52
  if e = 0 then f else (2 ^ 52 + f) * 2 ^ (e - 1)

/-- A finite value in units of 2^-1074. -/
def intUnits (x : F64) : Int := if signBit x then -(unitsOf x : Int) else (unitsOf x : Int)

/-- Flips the sign bit only (R221, R342). -/
def fneg (x : F64) : F64 := x ^^^ 0x8000000000000000#64

/-! ## Rounding -/

/-- The quotient `num / den` rounded to the nearest integer, ties to even. -/
def roundQuotient (num den : Nat) : Nat :=
  let m := num / den
  let r := num % den
  if den < 2 * r || (2 * r == den && m % 2 == 1) then m + 1 else m

/-- The position of the unit in the last place of `num / den` above 2^-1074. -/
def ulpShift (num den : Nat) : Nat := (num / den).log2 - 52

/-- The magnitude pattern of `num / den` units of 2^-1074, rounded to nearest with ties to even (R12); a value beyond
the largest finite one is infinity. A carry out of the fraction moves into the exponent by itself. -/
def roundMag (num den : Nat) : Nat :=
  let k := ulpShift num den
  Nat.min (k * 2 ^ 52 + roundQuotient num (den * 2 ^ k)) infBits

/-- A pattern from its sign and its magnitude. -/
def packSign (neg : Bool) (mag : Nat) : F64 := BitVec.ofNat 64 ((if neg then 2 ^ 63 else 0) + mag)

/-- `± num / den` units of 2^-1074, rounded (R12). -/
def roundUnits (neg : Bool) (num den : Nat) : F64 := packSign neg (roundMag num den)

/-! ## NaNs -/

/-- A pattern as a NaN: itself where it is one, else the quiet NaN with its sign and payload bits. Every NaN pattern
is the value of some argument. -/
def toNaN (x : F64) : F64 := if isNaN x then x else x ||| 0x7FF8000000000000#64

/-- `NAN_RESULT`, the NaN of an invalid operation (R10, 93 item I1; log 5). -/
def nanResult : F64 := toNaN Config.nanResultBits

/-- The NaN of an operation with a NaN operand (93 item I2; log 6). -/
def nanOperand (op : FloatOp) (x y : F64) : F64 := toNaN (Config.nanOperandBits op x y)

/-! ## The operations of R12 -/

/-- The exact sum of two finite values, rounded; an exact zero is `+0.0` unless both operands are negative zeros. -/
def addFinite (x y : F64) : F64 :=
  let z := intUnits x + intUnits y
  if z = 0 then packSign (signBit x && signBit y) 0 else roundUnits (decide (z < 0)) z.natAbs 1

/-- The sum of two operands that are no NaN. -/
def addNumbers (x y : F64) : F64 :=
  if isInf x then (if isInf y && signBit x != signBit y then nanResult else x)
  else if isInf y then y
  else addFinite x y

/-- `x + y`. -/
def fadd (x y : F64) : F64 :=
  if isNaN x || isNaN y then nanOperand .add x y else addNumbers x y

/-- `x - y`. -/
def fsub (x y : F64) : F64 :=
  if isNaN x || isNaN y then nanOperand .sub x y else addNumbers x (fneg y)

/-- `x * y`. -/
def fmul (x y : F64) : F64 :=
  let neg := signBit x != signBit y
  if isNaN x || isNaN y then nanOperand .mul x y
  else if isInf x || isInf y then (if isZero x || isZero y then nanResult else packSign neg infBits)
  else roundUnits neg (unitsOf x * unitsOf y) (2 ^ 1074)

/-- `x / y`. -/
def fdiv (x y : F64) : F64 :=
  let neg := signBit x != signBit y
  if isNaN x || isNaN y then nanOperand .div x y
  else if isInf x then (if isInf y then nanResult else packSign neg infBits)
  else if isInf y then packSign neg 0
  else if isZero y then (if isZero x then nanResult else packSign neg infBits)
  else roundUnits neg (unitsOf x * 2 ^ 1074) (unitsOf y)

/-- The integer square root, one bit at a time from bit `bits - 1` down, above the part `r` already found. -/
def isqrtFrom (n : Nat) : (bits r : Nat) → Nat
  | 0, r => r
  | b + 1, r => isqrtFrom n b (if (r + 2 ^ b) * (r + 2 ^ b) ≤ n then r + 2 ^ b else r)

/-- The largest integer whose square is at most `n`. -/
def isqrt (n : Nat) : Nat := isqrtFrom n (n.log2 / 2 + 1) 0

/-- The correctly rounded root of a positive finite value (R10): its root, in units of 2^-1074, is the root of
`f * 2^t` for its fraction `f`; 60 more fraction bits and a sticky bit decide the rounding. -/
def sqrtPositive (x : F64) : F64 :=
  let e := Nat.max (magBits x / 2 ^ 52) 1
  let f := if magBits x / 2 ^ 52 = 0 then magBits x else 2 ^ 52 + magBits x % 2 ^ 52
  let t := e + 1073
  let n := f * 2 ^ (120 + t % 2)
  let q := isqrt n
  let sticky := if q * q = n then 0 else 1
  roundUnits false ((2 * q + sticky) * 2 ^ (t / 2 - 60)) 2

/-- `SQRT(x)`, the IEEE 754 correctly rounded square root (R10). -/
def fsqrt (x : F64) : F64 :=
  if isNaN x then nanOperand .sqrt x x
  else if isZero x then x
  else if signBit x then nanResult
  else if isInf x then x
  else sqrtPositive x

/-! ## Comparisons (R12): false when either operand is a NaN, and `+0.0 == -0.0` -/

/-- The order of the values that are no NaN. -/
def orderKey (x : F64) : Int := if signBit x then -(magBits x : Int) else (magBits x : Int)

/-- `x < y`. -/
def flt (x y : F64) : Bool := !isNaN x && !isNaN y && decide (orderKey x < orderKey y)

/-- `x <= y`. -/
def fle (x y : F64) : Bool := !isNaN x && !isNaN y && decide (orderKey x ≤ orderKey y)

/-- `x == y`. -/
def feq (x y : F64) : Bool := !isNaN x && !isNaN y && decide (orderKey x = orderKey y)

/-! ## Integers and constants -/

/-- `F(n)` for a natural number: exact below 2^53 (R12). -/
def ofNatF (n : Nat) : F64 := roundUnits false (n * 2 ^ 1074) 1

/-- `F(n)` for a signed integer (R12, used by R340). -/
def ofIntF (n : Int) : F64 := if n < 0 then fneg (ofNatF n.natAbs) else ofNatF n.natAbs

def fZero : F64 := 0x0000000000000000#64
def fOne : F64 := 0x3FF0000000000000#64
def fTwo : F64 := 0x4000000000000000#64
def fThree : F64 := 0x4008000000000000#64
def fHalf : F64 := 0x3FE0000000000000#64
/-- 0.125 (R285). -/
def fEighth : F64 := 0x3FC0000000000000#64

/-! ## The numeric functions of R10 -/

/-- `SIN(x)`: open, but `SIN(+0.0) = +0.0` and `SIN(-0.0) = -0.0` (93 item I3; log 7). -/
def sin (x : F64) : F64 := if isZero x then x else Config.sinValue x

/-- `COS(x)`: open, but `COS(±0.0) = 1.0` (93 item I4; log 7). -/
def cos (x : F64) : F64 := if isZero x then fOne else Config.cosValue x

/-- `ATAN2(y, x)`: open (93 item I5; log 7). -/
def atan2 (y x : F64) : F64 := Config.atan2Value y x

end Sys2Proof.Machine
end

