-- ==== Sys2Proof/Machine/Ops.lean ====
section
/-! DEFINITION. The operations every command is built from: DMEM (spec/00_scope.md R14, spec/20_memory.md R100-R107),
the unit banks, completion (spec/40_control.md R202), taking a fault (spec/60_exceptions.md R460) and the ways a run
starts and ends (R482, R483, spec/70_reset_and_hazards.md R502), and the one form of a command: checks in the order of
R456, then its effect. -/

namespace Sys2Proof.Machine

/-! ## DMEM -/

/-- What an address that memory does not list reads as (DESIGN CHOICE, log 2). -/
def Memory.unlisted : Byte := 0#8

/-- Addresses rise strictly from `lo` and no entry holds what an unlisted address reads as. -/
def Memory.wfFrom (lo : Nat) : Memory → Bool
  | [] => true
  | (k, v) :: rest => decide (lo ≤ k) && v != Memory.unlisted && Memory.wfFrom (k + 1) rest

/-- The canonical form of a memory. -/
def Memory.wf (m : Memory) : Bool := Memory.wfFrom 0 m

/-- Every listed address is a DMEM address (R100). -/
def Memory.inDmem (m : Memory) : Bool := m.all fun c => decide (c.1 < Config.dmemBytes)

/-- The byte at `a`. -/
def readByte : Memory → Nat → Byte
  | [], _ => Memory.unlisted
  | (k, v) :: rest, a => if a < k then Memory.unlisted else if a = k then v else readByte rest a

/-- Stores one byte, keeping the canonical form. -/
def writeByte : Memory → Nat → Byte → Memory
  | [], a, b => if b = Memory.unlisted then [] else [(a, b)]
  | (k, v) :: rest, a, b =>
    if a < k then (if b = Memory.unlisted then (k, v) :: rest else (a, b) :: (k, v) :: rest)
    else if a = k then (if b = Memory.unlisted then rest else (a, b) :: rest)
    else (k, v) :: writeByte rest a b

/-- The `n` bytes from `a` upward. -/
def readBytes (m : Memory) (a n : Nat) : List Byte := (List.range n).map fun i => readByte m (a + i)

/-- Stores bytes from `a` upward, in ascending address order (R107). -/
def writeBytes (m : Memory) (a : Nat) : List Byte → Memory
  | [] => m
  | b :: bs => writeBytes (writeByte m a b) (a + 1) bs

/-- `MemRead(addr, n)` (R14): little-endian. -/
def memRead (m : Memory) (a : Nat) : Nat → Nat
  | 0 => 0
  | n + 1 => (readByte m a).toNat + 256 * memRead m (a + 1) n

/-- The `n` low bytes of `v`, least significant first (R14, R102). -/
def bytesLE : (n v : Nat) → List Byte
  | 0, _ => []
  | n + 1, v => BitVec.ofNat 8 v :: bytesLE n (v / 256)

/-- `MemWrite(addr, n, v)` (R14). -/
def memWrite (m : Memory) (a n v : Nat) : Memory := writeBytes m a (bytesLE n v)

/-- `RdR` (R14). -/
def rdR (m : Memory) (a : Nat) : F64 := BitVec.ofNat 64 (memRead m a 8)

/-- `WrR` (R14). -/
def wrR (m : Memory) (a : Nat) (x : F64) : Memory := memWrite m a 8 x.toNat

/-- `RdC` (R14). -/
def rdC (m : Memory) (a : Nat) : Cpx := ⟨rdR m a, rdR m (a + 8)⟩

/-- `WrC` (R14). -/
def wrC (m : Memory) (a : Nat) (z : Cpx) : Memory := wrR (wrR m a z.re) (a + 8) z.im

/-- `WrU` (R14). -/
def wrU (m : Memory) (a : Nat) (v : Nat) : Memory := memWrite m a 4 v

/-- DMEM holding the listed bytes that lie in it, for the contents a hardware reset leaves (R500). -/
def Memory.ofCells (cells : List Host.Cell) : Memory :=
  (cells.filter fun c => decide (c.1 < Config.dmemBytes)).foldl (fun m c => writeByte m c.1 c.2) []

/-! ## Updates of the state -/

/-- Replaces DMEM. -/
def State.setDmem (s : State) (m : Memory) : State := { s with dmem := m }

/-- `LAST_COUNT <- q` (R58). -/
def State.setCount (s : State) (q : Nat) : State := { s with lastCount := BitVec.ofNat 32 q }

/-- `U.DL[i]`. -/
def State.dlAt (s : State) (i : Nat) : DelayLine := s.dl[i]?.getD DelayLine.reset
/-- `U.DL[i] := l`. -/
def State.setDl (s : State) (i : Nat) (l : DelayLine) : State := { s with dl := s.dl.setIfInBounds i l }
/-- `U.HB[i]`. -/
def State.hbAt (s : State) (i : Nat) : Halfband := s.hb[i]?.getD Halfband.reset
/-- `U.HB[i] := h`. -/
def State.setHb (s : State) (i : Nat) (h : Halfband) : State := { s with hb := s.hb.setIfInBounds i h }
/-- `U.CH[i]`. -/
def State.chAt (s : State) (i : Nat) : Chain := s.ch[i]?.getD Chain.reset
/-- `U.CH[i] := c`. -/
def State.setCh (s : State) (i : Nat) (c : Chain) : State := { s with ch := s.ch.setIfInBounds i c }
/-- `U.FIR[i]`. -/
def State.firAt (s : State) (i : Nat) : Fir := s.fir[i]?.getD Fir.reset
/-- `U.FIR[i] := f`. -/
def State.setFir (s : State) (i : Nat) (f : Fir) : State := { s with fir := s.fir.setIfInBounds i f }
/-- `U.IIR[i]`. -/
def State.iirAt (s : State) (i : Nat) : Iir := s.iir[i]?.getD Iir.reset
/-- `U.IIR[i] := g`. -/
def State.setIir (s : State) (i : Nat) (g : Iir) : State := { s with iir := s.iir.setIfInBounds i g }
/-- `U.GZ[i]`. -/
def State.gzAt (s : State) (i : Nat) : Goertzel := s.gz[i]?.getD Goertzel.reset
/-- `U.GZ[i] := g`. -/
def State.setGz (s : State) (i : Nat) (g : Goertzel) : State := { s with gz := s.gz.setIfInBounds i g }
/-- `U.NCO[i]`. -/
def State.ncoAt (s : State) (i : Nat) : Nco := s.nco[i]?.getD Nco.reset
/-- `U.NCO[i] := o`. -/
def State.setNco (s : State) (i : Nat) (o : Nco) : State := { s with nco := s.nco.setIfInBounds i o }

/-! ## Completion, faults and the ends of a run -/

/-- `CP <- u32(CP + 64)` (R44, R202). -/
def advance (s : State) : State := { s with cp := s.cp + 64#32 }

/-- `RETIRED <- (RETIRED + 1) mod 2^64` (R61, R202). -/
def retire (s : State) : State := { s with retired := s.retired + 1#64 }

/-- The completion of a command that did not set `CP` itself (R202). -/
def complete (s : State) : State := retire (advance s)

/-- Fault entry with cause `c` and info `v`, at the descriptor at `CP` (R460). -/
def takeFault (c : Cause) (v : Word) (s : State) : State :=
  { s with
    cause := c
    faultCp := s.cp
    faultInfo := v
    status := { s.status with busy := false, fault := true }
    irqPend := { s.irqPend with fault := true }
    abortReq := false }

/-- Starting a run, also the host's return from a fault it has cleared (R461, R482). -/
def startRun (s : State) : State :=
  { s with status := { s.status with busy := true, done := false, aborted := false } }

/-- A soft reset: every control register, latch and unit bank as after reset, DMEM kept (R502). -/
def softReset (s : State) : State :=
  { State.reset with dmem := s.dmem, inputs := s.inputs, response := s.response }

/-- The abort taken at a command boundary (R483). -/
def abortRun (s : State) : State :=
  { s with
    abortReq := false
    status := { s.status with busy := false, aborted := true }
    irqPend := { s.irqPend with abort := true } }

/-- The boundary after a step whose run has ended by HALT or a fault: a pending soft reset is taken, a pending abort
is consumed without setting ABORTED (R201, R460, R483, R502; DEDUCED, log 13). -/
def endRun (s : State) : State :=
  if s.sresetReq then softReset s else { s with abortReq := false }

/-- The boundary after a step. While the run goes on, its latches wait for the next step (R450). -/
def atBoundary (s : State) : State := if s.status.busy then s else endRun s

/-! ## The checks of a command and its effect -/

/-- One check of R456: where `ok` fails, the command faults with `cause` and `info`. -/
structure Check where
  ok : Bool
  cause : Cause
  info : Word
deriving DecidableEq, Repr

/-- The one fault R456 reports: that of the first failing check. -/
def firstFault (cs : List Check) : Option (Cause × Word) :=
  (cs.find? fun c => !c.ok).map fun c => (c.cause, c.info)

/-- A command: its checks in the order of R456, each made before anything is written; where all pass, the state its
pseudocode leaves. -/
def checked (s : State) (cs : List Check) (done : State) : Result :=
  match firstFault cs with
  | some (c, v) => .next (takeFault c v s)
  | none => .next done

/-- A command that completes by R202 after its effect. -/
def command (s : State) (cs : List Check) (effect : State) : Result := checked s cs (complete effect)

/-- The unit kinds whose instances have a `cfg` bit (R65). -/
inductive UnitKind where
  | hb
  | dl
  | fir
  | iir
  | gz
  | nco
deriving DecidableEq, Repr

/-- The kind's number in an UNCONFIGURED info value (R451). -/
def kindCode : UnitKind → Nat
  | .hb => 1
  | .dl => 2
  | .fir => 3
  | .iir => 4
  | .gz => 5
  | .nco => 6

/-- BAD_UNIT, info `UNIT` (R451). -/
def unitCheck (u : Nib) (count : Nat) : Check :=
  ⟨decide (u.toNat < count), .badUnit, BitVec.ofNat 32 u.toNat⟩

/-- UNCONFIGURED, info `(kind << 8) | index` (R451, R452). -/
def cfgCheck (cfg : Bool) (kind : UnitKind) (i : Nat) : Check :=
  ⟨cfg, .unconfigured, BitVec.ofNat 32 (kindCode kind * 256 + i)⟩

/-- BAD_FIELD, info the word index of the field (R451). -/
def fieldCheck (ok : Bool) (word : Nat) : Check := ⟨ok, .badField, BitVec.ofNat 32 word⟩

end Sys2Proof.Machine
end

