-- ==== Sys2Proof/Machine/Operands.lean ====
section
/-! DEFINITION. The operand forms of the commands: regions of DMEM by element type (spec/20_memory.md R103, R104;
spec/30_encoding.md R144) with their checks in the order of spec/60_exceptions.md R456, and reading and writing whole
arrays (spec/00_scope.md R14, R17). -/

namespace Sys2Proof.Machine

/-- `Region(addr, count, esize, align)` (R104). -/
structure Region where
  addr : Word
  count : Nat
  esize : Nat
  align : Nat
deriving DecidableEq, Repr

/-- C: CPX elements, 16 bytes, align 16 (R144). -/
def cpxRegion (a : Word) (n : Nat) : Region := ⟨a, n, 16, 16⟩
/-- R: binary64 elements, 8 bytes, align 8 (R144). -/
def realRegion (a : Word) (n : Nat) : Region := ⟨a, n, 8, 8⟩
/-- Rec16: 16-byte records, align 8 (R144). -/
def rec16Region (a : Word) (n : Nat) : Region := ⟨a, n, 16, 8⟩
/-- Rec32: 32-byte records, align 8 (R144). -/
def rec32Region (a : Word) (n : Nat) : Region := ⟨a, n, 32, 8⟩

/-- The alignment test, made even when the count is 0 (R104). -/
def Region.aligned (r : Region) : Bool := r.addr.toNat % r.align == 0

/-- The range test, the sum computed without wrap-around, not made when the count is 0 (R104). -/
def Region.inRange (r : Region) : Bool :=
  r.count == 0 || decide (r.addr.toNat + r.count * r.esize ≤ Config.dmemBytes)

/-- OPERAND_MISALIGNED, info the address (R451). -/
def alignCheck (r : Region) : Check := ⟨r.aligned, .operandMisaligned, r.addr⟩

/-- OPERAND_RANGE, info the address (R451). -/
def rangeCheck (r : Region) : Check := ⟨r.inRange, .operandRange, r.addr⟩

/-- The region checks, the regions given in the order A, B, D: every alignment test before any range test (R456). -/
def regionChecks (rs : List Region) : List Check := rs.map alignCheck ++ rs.map rangeCheck

/-! ## Arrays (R14) -/

/-- The CPX array of `n` elements at `a`. -/
def readCpxs (m : Memory) (a n : Nat) : List Cpx := (List.range n).map fun i => rdC m (a + 16 * i)

/-- The real array of `n` elements at `a`. -/
def readReals (m : Memory) (a n : Nat) : List F64 := (List.range n).map fun i => rdR m (a + 8 * i)

/-- Stores a CPX array at `d`, in ascending order (R107). -/
def writeCpxs (m : Memory) (d : Nat) : List Cpx → Memory
  | [] => m
  | z :: zs => writeCpxs (wrC m d z) (d + 16) zs

/-- Stores a real array at `d`, in ascending order (R107). -/
def writeReals (m : Memory) (d : Nat) : List F64 → Memory
  | [] => m
  | x :: xs => writeReals (wrR m d x) (d + 8) xs

end Sys2Proof.Machine
end

