-- ==== Sys2Proof/Machine/Complex.lean ====
section
/-! DEFINITION. The complex sample arithmetic unit (spec/41_complex_arith.md): the primitives R221-R223, the
elementwise commands R224-R236 and the reductions R240-R243. -/

namespace Sys2Proof.Machine

/-! ## Primitives (R221) -/

def cadd (a b : Cpx) : Cpx := ⟨fadd a.re b.re, fadd a.im b.im⟩

def csub (a b : Cpx) : Cpx := ⟨fsub a.re b.re, fsub a.im b.im⟩

def cmul (a b : Cpx) : Cpx :=
  ⟨fsub (fmul a.re b.re) (fmul a.im b.im), fadd (fmul a.re b.im) (fmul a.im b.re)⟩

def cscale (a : Cpx) (k : F64) : Cpx := ⟨fmul a.re k, fmul a.im k⟩

def cconj (a : Cpx) : Cpx := ⟨a.re, fneg a.im⟩

def sqmag (a : Cpx) : F64 := fadd (fmul a.re a.re) (fmul a.im a.im)

def mag (a : Cpx) : F64 := fsqrt (sqmag a)

/-- The denominator of R222, with the epsilon guard on its computed value. -/
def divDenominator (b : Cpx) : F64 :=
  let d := fadd (fmul b.re b.re) (fmul b.im b.im)
  if feq d fZero then Config.eps else d

/-- `cdiv(a, b)` (R222). -/
def cdiv (a b : Cpx) : Cpx :=
  ⟨fdiv (fadd (fmul a.re b.re) (fmul a.im b.im)) (divDenominator b),
    fdiv (fsub (fmul a.im b.re) (fmul a.re b.im)) (divDenominator b)⟩

/-- `arg(a)`, the phase, `+0.0` at zero (R223). -/
def arg (a : Cpx) : F64 := if feq a.re fZero && feq a.im fZero then fZero else atan2 a.im a.re

/-- `polar(a)` (R223). -/
def polar (a : Cpx) : Cpx := ⟨mag a, arg a⟩

/-- `rect(p)` (R223). -/
def rect (p : Cpx) : Cpx := ⟨fmul p.re (cos p.im), fmul p.re (sin p.im)⟩

/-! ## Elementwise commands (R220) -/

/-- Two CPX sources and a CPX destination. -/
def binaryCpx (f : Cpx → Cpx → Cpx) (a b d n : Word) (s : State) : Result :=
  command s (regionChecks [cpxRegion a n.toNat, cpxRegion b n.toNat, cpxRegion d n.toNat])
    (s.setDmem (writeCpxs s.dmem d.toNat
      (List.zipWith f (readCpxs s.dmem a.toNat n.toNat) (readCpxs s.dmem b.toNat n.toNat))))

/-- One CPX source and a CPX destination. -/
def unaryCpx (f : Cpx → Cpx) (a d n : Word) (s : State) : Result :=
  command s (regionChecks [cpxRegion a n.toNat, cpxRegion d n.toNat])
    (s.setDmem (writeCpxs s.dmem d.toNat ((readCpxs s.dmem a.toNat n.toNat).map f)))

/-- One CPX source and a real destination. -/
def unaryReal (f : Cpx → F64) (a d n : Word) (s : State) : Result :=
  command s (regionChecks [cpxRegion a n.toNat, realRegion d n.toNat])
    (s.setDmem (writeReals s.dmem d.toNat ((readCpxs s.dmem a.toNat n.toNat).map f)))

/-- VADD (R224). -/
def execVadd (a b d n : Word) (s : State) : Result := binaryCpx cadd a b d n s

/-- VSUB (R225). -/
def execVsub (a b d n : Word) (s : State) : Result := binaryCpx csub a b d n s

/-- VMUL (R226). -/
def execVmul (a b d n : Word) (s : State) : Result := binaryCpx cmul a b d n s

/-- VDIV (R227). -/
def execVdiv (a b d n : Word) (s : State) : Result := binaryCpx cdiv a b d n s

/-- VSCALE (R228). -/
def execVscale (a d n : Word) (k0 : F64) (s : State) : Result := unaryCpx (fun z => cscale z k0) a d n s

/-- VCONJ (R229). -/
def execVconj (a d n : Word) (s : State) : Result := unaryCpx cconj a d n s

/-- VMAG (R230). -/
def execVmag (a d n : Word) (s : State) : Result := unaryReal mag a d n s

/-- VSQMAG (R231). -/
def execVsqmag (a d n : Word) (s : State) : Result := unaryReal sqmag a d n s

/-- VPOLAR (R232). -/
def execVpolar (a d n : Word) (s : State) : Result := unaryCpx polar a d n s

/-- VRECT (R233). -/
def execVrect (a d n : Word) (s : State) : Result := unaryCpx rect a d n s

/-- VCLEAR (R234). -/
def execVclear (d n : Word) (s : State) : Result :=
  command s (regionChecks [cpxRegion d n.toNat])
    (s.setDmem (writeCpxs s.dmem d.toNat (List.replicate n.toNat Cpx.zero)))

/-- VCOPY (R235): bit for bit. -/
def execVcopy (a d n : Word) (s : State) : Result := unaryCpx (fun z => z) a d n s

/-- The elements `0, by, 2*by, …` of the input of VDECIM, `q` of them (R236). -/
def strided (m : Memory) (a stride q : Nat) : List Cpx :=
  (List.range q).map fun j => rdC m (a + 16 * (j * stride))

/-- VDECIM (R236). -/
def execVdecim (a d n m : Word) (s : State) : Result :=
  let q := n.toNat / m.toNat
  command s (fieldCheck (m.toNat != 0) 5 :: regionChecks [cpxRegion a n.toNat, cpxRegion d q])
    ((s.setDmem (writeCpxs s.dmem d.toNat (strided s.dmem a.toNat m.toNat q))).setCount q)

/-! ## Reductions (R237) -/

/-- A reduction of a CPX array to one binary64. -/
def reduction (f : List Cpx → F64) (a d n : Word) (s : State) : Result :=
  command s (regionChecks [cpxRegion a n.toNat, realRegion d 1])
    (s.setDmem (wrR s.dmem d.toNat (f (readCpxs s.dmem a.toNat n.toNat))))

/-- The ascending sum of the squared magnitudes (R240). -/
def normSqr (zs : List Cpx) : F64 := zs.foldl (fun acc z => fadd acc (sqmag z)) fZero

/-- The RMS-style norm, `+0.0` of an empty buffer (R241). -/
def rmsNorm (zs : List Cpx) : F64 :=
  if zs.length = 0 then fZero else fsqrt (fdiv (normSqr zs) (ofNatF zs.length))

/-- The largest value of `f` over the buffer that exceeds `+0.0`; a NaN never replaces it (R242). -/
def peakOf (f : Cpx → F64) (zs : List Cpx) : F64 :=
  zs.foldl (fun acc z => if flt acc (f z) then f z else acc) fZero

/-- VNORMSQR (R240). -/
def execVnormsqr (a d n : Word) (s : State) : Result := reduction normSqr a d n s

/-- VNORM (R241). -/
def execVnorm (a d n : Word) (s : State) : Result := reduction rmsNorm a d n s

/-- VPEAK (R242). -/
def execVpeak (a d n : Word) (s : State) : Result := reduction (peakOf mag) a d n s

/-- VPEAKPWR (R243). -/
def execVpeakpwr (a d n : Word) (s : State) : Result := reduction (peakOf sqmag) a d n s

end Sys2Proof.Machine
end

