-- ==== Sys2Proof/Machine/Halfband.lean ====
section
/-! DEFINITION. The halfband stage (spec/43_halfband_cic3.md): the design table R280 under the constraints R281, the
FIR pass R282-R284, the CIC3 pass R285, the stage R286 with its output count R287, and the commands R290, R291. -/

namespace Sys2Proof.Machine

/-! ## The design table (R280, R281) -/

/-- `HB_TAPS[d]`; 0 for CIC3, which is not a FIR. -/
def hbTaps (d : Fin 14) : Nat := ([0, 7, 11, 15, 19, 23, 27, 31, 35, 39, 43, 47, 51, 59][d.val]?).getD 0

/-- `WPASS[d]`: finite and greater than 0 (R281(d)), otherwise open for `d` in 1..13 (log 9). -/
def wpass (d : Fin 14) : F64 :=
  if d.val = 0 then Config.wpassCic3
  else
    let w := Config.wpassValue d.val
    if isFinite w && flt fZero w then w else fOne

/-- The ascending sum from `+0.0` (D4). -/
def sumAscending (h : List F64) : F64 := h.foldl fadd fZero

/-- A tap of design `d` with the zeros of R281(b): zero at odd `k` except at the center. -/
def hbRawTap (d : Fin 14) (k : Nat) : F64 :=
  if k % 2 = 1 ∧ k ≠ (hbTaps d - 1) / 2 then fZero else Config.hbCoeffValue d.val k

/-- The open taps have DC gain 1 (R281(c)). -/
def hbGainOk (d : Fin 14) : Bool := feq (sumAscending ((List.range (hbTaps d)).map (hbRawTap d))) fOne

/-- The unit impulse at the center, the value taken in place of open taps that break R281(c). -/
def impulseTap (d : Fin 14) (k : Nat) : F64 := if k = (hbTaps d - 1) / 2 then fOne else fZero

/-- `HB_COEFF[d]` for `d` in 1..13: open under R281(a)-(c) (log 9). -/
def hbCoeff (d : Fin 14) : List F64 :=
  (List.range (hbTaps d)).map fun k => if hbGainOk d then hbRawTap d k else impulseTap d k

/-- A design's pass semantics (R310): CIC3 for index 0. -/
def formOf (d : Fin 14) : PassForm := if d.val = 0 then .cic3 else .fir

/-! ## Passes -/

/-- `firsum` of R283: zero taps are skipped, the center never is. `h != 0.0` holds of a NaN (log 10). -/
def firsum (h : List F64) (w : List Cpx) (i : Nat) : Cpx :=
  (List.range h.length).foldl
    (fun acc k =>
      let tap := (h[k]?).getD fZero
      let z := (w[i + (h.length - 1) - k]?).getD Cpx.zero
      if !feq tap fZero || k == (h.length - 1) / 2 then
        ⟨fadd acc.re (fmul tap z.re), fadd acc.im (fmul tap z.im)⟩
      else acc)
    Cpx.zero

/-- The input indices at which a FIR pass outputs: `i < n` with `(ph + i) mod 2 = 0` (R282, R284). -/
def outputIndices (ph n : Nat) : List Nat := (List.range n).filter fun i => (ph + i) % 2 == 0

/-- The outputs of a FIR pass with taps `h`: filtered where there are at least `T` inputs (R282), else the inputs at
the output indices unfiltered (R284). -/
def firOutputs (h : List F64) (st : PassState) (x : List Cpx) : List Cpx :=
  let w := st.hist ++ x
  if h.length ≤ x.length then (outputIndices st.ph.val x.length).map fun i => firsum h w i
  else (outputIndices st.ph.val x.length).map fun i => (x[i]?).getD Cpx.zero

/-- A FIR pass (R282, R284): the history keeps the last `T - 1` samples, the phase advances by the input count. -/
def firpass (h : List F64) (st : PassState) (x : List Cpx) : PassState × List Cpx :=
  ({ st with
      hist := ((st.hist ++ x).drop x.length).take (h.length - 1)
      ph := Fin.ofNat 2 (st.ph.val + x.length) },
    firOutputs h st x)

/-- One output of the CIC3 formula, one channel (R285). -/
def cicFormula (odd xEven xOdd even : F64) : F64 :=
  fmul fEighth (fadd (fadd odd xEven) (fmul fThree (fadd xOdd even)))

/-- One sample into a CIC3 pass: it waits as the even one of a pair, or completes the pair with an output (R285). -/
def cicStep (st : PassState) (z : Cpx) : PassState × Option Cpx :=
  if st.hasPend then
    ({ st with xOdd := z, xEven := st.pend, hasPend := false },
      some ⟨cicFormula z.re st.xEven.re st.xOdd.re st.pend.re, cicFormula z.im st.xEven.im st.xOdd.im st.pend.im⟩)
  else ({ st with pend := z, hasPend := true }, none)

/-- A CIC3 pass (R285). -/
def cicpass (st : PassState) : List Cpx → PassState × List Cpx
  | [] => (st, [])
  | z :: zs =>
    let r := cicpass (cicStep st z).1 zs
    (r.1, (cicStep st z).2.toList ++ r.2)

/-- The pass of a form. -/
def runPass (form : PassForm) (taps : List F64) (st : PassState) (x : List Cpx) : PassState × List Cpx :=
  match form with
  | .cic3 => cicpass st x
  | .fir => firpass taps st x

/-- The output count of one pass for `n` inputs (R287). -/
def passCount (form : PassForm) (st : PassState) (n : Nat) : Nat :=
  match form with
  | .cic3 => (n + (if st.hasPend then 1 else 0)) / 2
  | .fir => (n + 1 - st.ph.val) / 2

/-! ## Stages (R286, R287) -/

/-- `stageApply`: one pass, or two passes of the same design in series, each with its own state; the new states of
pass 0 and pass 1, and the output (R286). -/
def stageApply (form : PassForm) (taps : List F64) (decim : Decim) (p0 p1 : PassState) (x : List Cpx) :
    PassState × PassState × List Cpx :=
  let r0 := runPass form taps p0 x
  match decim with
  | .two => (r0.1, p1, r0.2)
  | .four =>
    let r1 := runPass form taps p1 r0.2
    (r0.1, r1.1, r1.2)

/-- The output count of a stage for `n` inputs (R287). -/
def stageCount (form : PassForm) (decim : Decim) (p0 p1 : PassState) (n : Nat) : Nat :=
  match decim with
  | .two => passCount form p0 n
  | .four => passCount form p1 (passCount form p0 n)

/-! ## Commands -/

/-- The decimation a `P` field names (R290). -/
def decimOf (p : Word) : Decim := if p = 4#32 then .four else .two

/-- The stage HB.CFG makes from a form, a design, taps and a pass-band edge: its histories are zero (R290). -/
def freshHalfband (form : PassForm) (design : HbDesign) (coeff : List F64) (edge : F64) (decim : Decim) : Halfband :=
  ⟨true, form, design, coeff, edge, decim, PassState.zero (coeff.length - 1), PassState.zero (coeff.length - 1)⟩

/-- The stage HB.CFG makes, by mode (R290); the checks have excluded other modes and indices. -/
def configuredHalfband (m : Memory) (mode : Nib) (a n design p : Word) (k0 : F64) : Halfband :=
  if mode = 0#4 then
    let d := Fin.ofNat 14 design.toNat
    freshHalfband (formOf d) (.table d) (if d.val = 0 then [] else hbCoeff d) (wpass d) (decimOf p)
  else if mode = 1#4 then freshHalfband .fir .direct (readReals m a.toNat n.toNat) k0 (decimOf p)
  else freshHalfband .cic3 .direct [] k0 (decimOf p)

/-- HB.CFG (R290): in mode 1 the coefficients are a region. -/
def execHbCfg (u mode : Nib) (a n m p : Word) (k0 : F64) (s : State) : Result :=
  command s
    ([unitCheck u Config.hbUnits,
      fieldCheck (decide (mode.toNat ≤ 2)) 0,
      fieldCheck (decide (mode = 1#4 → n.toNat % 2 = 1 ∧ 3 ≤ n.toNat ∧ n.toNat ≤ Config.hbMaxTaps)) 4,
      fieldCheck (decide (mode = 0#4 → m.toNat < 14)) 5,
      fieldCheck (decide (p = 2#32 ∨ p = 4#32)) 6] ++
      (if mode = 1#4 then regionChecks [realRegion a n.toNat] else []))
    (s.setHb u.toNat (configuredHalfband s.dmem mode a n m p k0))

/-- A standalone stage applied to its input (R286). -/
def Halfband.apply (h : Halfband) (x : List Cpx) : Halfband × List Cpx :=
  let r := stageApply h.form h.coeff h.decim h.pass0 h.pass1 x
  ({ h with pass0 := r.1, pass1 := r.2.1 }, r.2.2)

/-- The output count of a standalone stage (R287). -/
def Halfband.count (h : Halfband) (n : Nat) : Nat := stageCount h.form h.decim h.pass0 h.pass1 n

/-- HB.RUN (R291). -/
def execHbRun (u : Nib) (a d n : Word) (s : State) : Result :=
  let h := s.hbAt u.toNat
  let q := h.count n.toNat
  let r := h.apply (readCpxs s.dmem a.toNat n.toNat)
  command s
    ([unitCheck u Config.hbUnits, cfgCheck h.cfg .hb u.toNat] ++
      regionChecks [cpxRegion a n.toNat, cpxRegion d q])
    (((s.setHb u.toNat r.1).setDmem (writeCpxs s.dmem d.toNat r.2)).setCount q)

end Sys2Proof.Machine
end

