-- ==== Sys2Proof/Machine/Chain.lean ====
section
/-! DEFINITION. The decimator chain (spec/44_decimator_chain.md): selection R311, merging R312, the builder R313, the
driver R316 and the listing R318. -/

namespace Sys2Proof.Machine

/-! ## Building -/

/-- The lowest design index whose pass-band is at most the current rate, `(bw / WPASS[d]) <= rate` (R311). -/
def chooseDesign (bw rate : F64) : Option (Fin 14) :=
  (List.finRange 14).find? fun d => fle (fdiv bw (wpass d)) rate

/-- A fresh stage of a chain: `HB_TAPS[d] - 1` history samples, all zero (R313, R67). -/
def freshStage (d : Fin 14) (rate : F64) : Stage :=
  ⟨d, .two, rate, PassState.zero (hbTaps d - 1), PassState.zero (hbTaps d - 1)⟩

/-- One halving with design `d`, the stages given last first: merged into the last stage, or appended (R312). -/
def appendStage (d : Fin 14) (rate : F64) : List Stage → List Stage
  | [] => [freshStage d rate]
  | last :: earlier =>
    if last.design = d ∧ last.decim = .two then { last with decim := .four } :: earlier
    else freshStage d rate :: last :: earlier

/-- What the builder's loop leaves: the stages last first, the rate reached, and whether it stopped for want of a
design. -/
structure Built where
  revStages : List Stage
  rate : F64
  trunc : Bool
deriving DecidableEq, Repr

/-- The builder's loop (R313), at most `fuel` halvings. -/
def buildLoop (bw target : F64) : (fuel : Nat) → Built → Built
  | 0, b => b
  | fuel + 1, b =>
    if fle target (fdiv b.rate fTwo) then
      match chooseDesign bw b.rate with
      | none => { b with trunc := true }
      | some d =>
        buildLoop bw target fuel ⟨appendStage d b.rate b.revStages, fdiv b.rate fTwo, false⟩
    else b

/-- More halvings than the loop ever makes: `F(N) < 2^32` and `target >= 1` allow at most 31 (R314(e); log 19). -/
def buildFuel : Nat := 32

/-- The output rate aimed at (R313). -/
def buildTarget (p : Word) : F64 := ofNatF (if p.toNat = 0 then Config.minRate else p.toNat)

/-- The chain CH.BUILD makes from the input rate, the protected bandwidth and the output rate (R313). -/
def buildChain (n m p : Word) : Chain :=
  let b := buildLoop (ofNatF m.toNat) (buildTarget p) buildFuel ⟨[], ofNatF n.toNat, false⟩
  ⟨b.revStages.reverse, b.rate, b.trunc⟩

/-- The 16-byte report record (R313). -/
def writeReport (m : Memory) (d : Nat) (c : Chain) : Memory :=
  wrU (wrU (wrR m d c.achieved) (d + 8) c.nstages) (d + 12) (if c.trunc then 1 else 0)

/-- CH.BUILD (R313). -/
def execChBuild (u : Nib) (d n m p : Word) (s : State) : Result :=
  let c := buildChain n m p
  command s
    ([unitCheck u Config.chainUnits, fieldCheck (n.toNat != 0) 4] ++ regionChecks [rec16Region d 1])
    (((s.setCh u.toNat c).setDmem (writeReport s.dmem d.toNat c)).setCount c.nstages)

/-! ## Driving -/

/-- A stage of a chain applied to its input: the shared taps of its design, its own pass states (R286, R310). -/
def Stage.apply (g : Stage) (x : List Cpx) : Stage × List Cpx :=
  let r := stageApply (formOf g.design) (hbCoeff g.design) g.decim g.pass0 g.pass1 x
  ({ g with pass0 := r.1, pass1 := r.2.1 }, r.2.2)

/-- The output count of a stage of a chain (R287). -/
def Stage.count (g : Stage) (n : Nat) : Nat := stageCount (formOf g.design) g.decim g.pass0 g.pass1 n

/-- The stages in order, each stage's output the next one's input (R316). -/
def runStages : List Stage → List Cpx → List Stage × List Cpx
  | [], x => ([], x)
  | g :: gs, x =>
    let r := g.apply x
    let rest := runStages gs r.2
    (r.1 :: rest.1, rest.2)

/-- The output count of the whole chain (R316). -/
def chainCount (gs : List Stage) (n : Nat) : Nat := gs.foldl (fun q g => g.count q) n

/-- CH.PROC (R316). -/
def execChProc (u : Nib) (a d n : Word) (s : State) : Result :=
  let c := s.chAt u.toNat
  let q := chainCount c.stages n.toNat
  let r := runStages c.stages (readCpxs s.dmem a.toNat n.toNat)
  command s
    ([unitCheck u Config.chainUnits, fieldCheck (decide (n.toNat ≤ Config.chMaxIn)) 4] ++
      regionChecks [cpxRegion a n.toNat, cpxRegion d q])
    (((s.setCh u.toNat { c with stages := r.1 }).setDmem (writeCpxs s.dmem d.toNat r.2)).setCount q)

/-! ## Listing -/

/-- The decimation as a number. -/
def decimNat : Decim → Nat
  | .two => 2
  | .four => 4

/-- One 16-byte stage record (R318). -/
def writeStageRecord (m : Memory) (d : Nat) (g : Stage) : Memory :=
  wrU (wrU (wrR m d g.rateIn) (d + 8) g.design.val) (d + 12) (decimNat g.decim)

/-- The stage records in ascending order (R318). -/
def writeStageRecords (m : Memory) (d : Nat) : List Stage → Memory
  | [] => m
  | g :: gs => writeStageRecords (writeStageRecord m d g) (d + 16) gs

/-- CH.INFO (R318). -/
def execChInfo (u : Nib) (d : Word) (s : State) : Result :=
  let c := s.chAt u.toNat
  command s
    (unitCheck u Config.chainUnits :: regionChecks [rec16Region d c.nstages])
    ((s.setDmem (writeStageRecords s.dmem d.toNat c.stages)).setCount c.nstages)

end Sys2Proof.Machine
end

