-- ==== Sys2Proof/Machine/Control.lean ====
section
/-! DEFINITION. The control commands (spec/40_control.md). None of them has a check of its own: their faults are those
of decoding (R143), and a bad target faults at the next fetch (R203, R205, R454). -/

namespace Sys2Proof.Machine

/-- NOP (R200). -/
def execNop (s : State) : Result := command s [] s

/-- HALT (R201): completion, then the end of the run. -/
def execHalt (s : State) : Result := checked s [] (haltFlags (complete s))

/-- JUMP (R203): `CP <- A`, unchecked. -/
def execJump (a : Word) (s : State) : Result := checked s [] (retire { s with cp := a })

/-- LSET (R204): `LC <- N`. -/
def execLset (n : Word) (s : State) : Result := command s [] { s with lc := n }

/-- The state LOOP leaves before its completion counts (R205): `LC` decremented unless it is 0, and `CP` at the target
where the decremented `LC` is not 0, else past the descriptor. -/
def loopEffect (a : Word) (s : State) : State :=
  if s.lc = 0#32 then advance s
  else if s.lc - 1#32 = 0#32 then advance { s with lc := s.lc - 1#32 }
  else { s with lc := s.lc - 1#32, cp := a }

/-- LOOP (R205). -/
def execLoop (a : Word) (s : State) : Result := checked s [] (retire (loopEffect a s))

/-- SIGNAL (R206): `IRQ_PEND.SIGNAL <- 1`; the run continues. -/
def execSignal (s : State) : Result := command s [] (signalFlag s)

end Sys2Proof.Machine
end

