-- ==== Sys2Proof/Machine/DelayLine.lean ====
section
/-! DEFINITION. The delay line FIFO (spec/42_delay_line.md): the primitives R260-R262 and the commands R263-R266. -/

namespace Sys2Proof.Machine

/-- `newSample(dl, c)`: the head moves down modulo the size, then takes the sample (R260). -/
def newSample (l : DelayLine) (c : Cpx) : DelayLine :=
  let head := (l.last + l.size - 1) % l.size
  { l with last := head, ring := l.ring.set head c }

/-- `nextDelay(dl, i)` (R261); any `i` wraps modulo the size (R268). -/
def nextDelay (l : DelayLine) (i : Nat) : Cpx := (l.ring[(l.last + l.delay + i) % l.size]?).getD Cpx.zero

/-- One channel of the multiply-accumulate before its NaN guard: the ascending sum over the samples from the `k`-th
after the head on (R262). -/
def macFrom (part : Cpx → F64) (l : DelayLine) (k : Nat) (acc : F64) : List F64 → F64
  | [] => acc
  | c :: cs => macFrom part l (k + 1) (fadd acc (fmul (part (nextDelay l k)) c)) cs

/-- A NaN sum becomes `+0.0` (R262). -/
def nanGuard (x : F64) : F64 := if isNaN x then fZero else x

/-- `mac(dl, c)` (R262). -/
def mac (l : DelayLine) (c : List F64) : Cpx :=
  ⟨nanGuard (macFrom Cpx.re l 0 fZero c), nanGuard (macFrom Cpx.im l 0 fZero c)⟩

/-- DL.CFG (R263). -/
def execDlCfg (u : Nib) (n m : Word) (s : State) : Result :=
  command s
    [unitCheck u Config.dlUnits,
      fieldCheck (decide (1 ≤ n.toNat ∧ n.toNat ≤ Config.dlMaxSize)) 4,
      fieldCheck (decide (m.toNat < n.toNat)) 5]
    (s.setDl u.toNat ⟨true, m.toNat, 0, List.replicate n.toNat Cpx.zero⟩)

/-- The checks of a command on a configured delay line. -/
def dlChecks (u : Nib) (s : State) : List Check :=
  [unitCheck u Config.dlUnits, cfgCheck (s.dlAt u.toNat).cfg .dl u.toNat]

/-- DL.PUSH (R264): the last sample read is the newest. -/
def execDlPush (u : Nib) (a n : Word) (s : State) : Result :=
  command s (dlChecks u s ++ regionChecks [cpxRegion a n.toNat])
    (s.setDl u.toNat ((readCpxs s.dmem a.toNat n.toNat).foldl newSample (s.dlAt u.toNat)))

/-- DL.TAP (R265). -/
def execDlTap (u : Nib) (d m : Word) (s : State) : Result :=
  command s (dlChecks u s ++ regionChecks [cpxRegion d 1])
    (s.setDmem (wrC s.dmem d.toNat (nextDelay (s.dlAt u.toNat) m.toNat)))

/-- DL.MAC (R266). -/
def execDlMac (u : Nib) (a d n : Word) (s : State) : Result :=
  command s (dlChecks u s ++ regionChecks [realRegion a n.toNat, cpxRegion d 1])
    (s.setDmem (wrC s.dmem d.toNat (mac (s.dlAt u.toNat) (readReals s.dmem a.toNat n.toNat))))

end Sys2Proof.Machine
end

