-- ==== Sys2Proof/Machine/Fir.lean ====
section
/-! DEFINITION. The FIR filter engine and tap generation (spec/45_fir.md): the primitives R340-R342, the tap commands
R343-R348, and the engine R350-R352. -/

namespace Sys2Proof.Machine

/-! ## Windows and the windowed-sinc prototype (R340, R341) -/

/-- `COS((TWO_PI * F(k)) / r)` with `r = F(N - 1)` (R341). -/
def windowCos (k n : Nat) : F64 := cos (fdiv (fmul Config.twoPi (ofNatF k)) (ofNatF (n - 1)))

/-- `COS(((2.0 * TWO_PI) * F(k)) / r)` (R341). -/
def windowCos2 (k n : Nat) : F64 :=
  cos (fdiv (fmul (fmul fTwo Config.twoPi) (ofNatF k)) (ofNatF (n - 1)))

/-- 0.54, 0.46, 0.42, 0.5 and 0.08 as the binary64 values nearest them (R341). -/
def hammingA : F64 := 0x3FE147AE147AE148#64
def hammingB : F64 := 0x3FDD70A3D70A3D71#64
def blackmanA : F64 := 0x3FDAE147AE147AE1#64
def blackmanC : F64 := 0x3FB47AE147AE147B#64

/-- `W(win, k, N)`: MODE 0 rectangular, 1 Hamming, 2 Blackman; every window is 1.0 for `N = 1` (R341). -/
def window (mode : Nib) (k n : Nat) : F64 :=
  if n = 1 ∨ mode = 0#4 then fOne
  else if mode = 1#4 then fsub hammingA (fmul hammingB (windowCos k n))
  else fadd (fsub blackmanA (fmul fHalf (windowCos k n))) (fmul blackmanC (windowCos2 k n))

/-- The raw windowed-sinc tap `k` of `n` at cutoff `fc` (R340). -/
def sincTap (n : Nat) (fc : F64) (k : Nat) : F64 :=
  let x : Int := (k : Int) - ((n - 1) / 2 : Nat)
  if x = 0 then fmul fTwo fc
  else fdiv (sin (fmul (fmul Config.twoPi fc) (ofIntF x))) (fmul Config.pi (ofIntF x))

/-- Dividing by the ascending sum, unless it is zero (R340). `S != 0.0` holds of a NaN (log 10). -/
def normalizeTaps (h : List F64) : List F64 :=
  let total := h.foldl fadd fZero
  if feq total fZero then h else h.map fun x => fdiv x total

/-- `genLP(N, fc, win)` (R340). -/
def genLP (n : Nat) (fc : F64) (mode : Nib) : List F64 :=
  normalizeTaps ((List.range n).map fun k => fmul (sincTap n fc k) (window mode k n))

/-- Spectral inversion: every tap negated, then 1.0 added to the center one (R342). -/
def invertTaps (h : List F64) : List F64 :=
  h.mapIdx fun k x => if k = (h.length - 1) / 2 then fadd (fneg x) fOne else fneg x

/-- Spectral reversal: the odd-indexed taps negated (R342). -/
def reverseTaps (h : List F64) : List F64 := h.mapIdx fun k x => if k % 2 = 1 then fneg x else x

/-! ## Tap commands (R343-R348) -/

/-- An odd tap count in 1..FIR_MAX_TAPS. -/
def oddTapCount (n : Word) : Bool := decide (n.toNat % 2 = 1 ∧ 1 ≤ n.toNat ∧ n.toNat ≤ Config.firMaxTaps)

/-- A tap count in 1..FIR_MAX_TAPS. -/
def tapCountOk (n : Word) : Bool := decide (1 ≤ n.toNat ∧ n.toNat ≤ Config.firMaxTaps)

/-- A legal cutoff: `0.0 < f < 0.5` (false for a NaN). -/
def cutoffOk (f : F64) : Bool := flt fZero f && flt f fHalf

/-- The checks of a generator with one cutoff (R345). -/
def genChecks (mode : Nib) (d n : Word) (k0 : F64) : List Check :=
  [fieldCheck (decide (mode.toNat ≤ 2)) 0, fieldCheck (oddTapCount n) 4, fieldCheck (cutoffOk k0) 8] ++
    regionChecks [realRegion d n.toNat]

/-- The checks of a generator with two cutoffs (R347). -/
def genChecks2 (mode : Nib) (d n : Word) (k0 k1 : F64) : List Check :=
  [fieldCheck (decide (mode.toNat ≤ 2)) 0, fieldCheck (oddTapCount n) 4, fieldCheck (cutoffOk k0) 8,
    fieldCheck (flt k0 k1 && flt k1 fHalf) 10] ++ regionChecks [realRegion d n.toNat]

/-- The bandstop taps: a lowpass at `f_lo` plus an inverted lowpass at `f_hi` (R347). -/
def bandstopTaps (mode : Nib) (n : Nat) (lo hi : F64) : List F64 :=
  List.zipWith fadd (genLP n lo mode) (invertTaps (genLP n hi mode))

/-- FIR.GENLP (R345). -/
def execFirGenlp (mode : Nib) (d n : Word) (k0 : F64) (s : State) : Result :=
  command s (genChecks mode d n k0) (s.setDmem (writeReals s.dmem d.toNat (genLP n.toNat k0 mode)))

/-- FIR.GENHP (R346). -/
def execFirGenhp (mode : Nib) (d n : Word) (k0 : F64) (s : State) : Result :=
  command s (genChecks mode d n k0)
    (s.setDmem (writeReals s.dmem d.toNat (invertTaps (genLP n.toNat k0 mode))))

/-- FIR.GENBS (R347). -/
def execFirGenbs (mode : Nib) (d n : Word) (k0 k1 : F64) (s : State) : Result :=
  command s (genChecks2 mode d n k0 k1)
    (s.setDmem (writeReals s.dmem d.toNat (bandstopTaps mode n.toNat k0 k1)))

/-- FIR.GENBP (R348). -/
def execFirGenbp (mode : Nib) (d n : Word) (k0 k1 : F64) (s : State) : Result :=
  command s (genChecks2 mode d n k0 k1)
    (s.setDmem (writeReals s.dmem d.toNat (invertTaps (bandstopTaps mode n.toNat k0 k1))))

/-- FIR.INVERT (R343). -/
def execFirInvert (a d n : Word) (s : State) : Result :=
  command s (fieldCheck (oddTapCount n) 4 :: regionChecks [realRegion a n.toNat, realRegion d n.toNat])
    (s.setDmem (writeReals s.dmem d.toNat (invertTaps (readReals s.dmem a.toNat n.toNat))))

/-- FIR.REVERSE (R344). -/
def execFirReverse (a d n : Word) (s : State) : Result :=
  command s (fieldCheck (tapCountOk n) 4 :: regionChecks [realRegion a n.toNat, realRegion d n.toNat])
    (s.setDmem (writeReals s.dmem d.toNat (reverseTaps (readReals s.dmem a.toNat n.toNat))))

/-! ## The engine (R350-R352) -/

/-- The engine FIR.CFG makes: taps copied, `xtail` zero (R350). -/
def configuredFir (mode : Nib) (taps : List F64) (m : Nat) : Fir :=
  if mode = 0#4 then ⟨true, .td, taps, m, 0, List.replicate (taps.length - 1) Cpx.zero⟩
  else ⟨true, .fd, taps, 0, m, List.replicate (taps.length - 1) Cpx.zero⟩

/-- FIR.CFG (R350). -/
def execFirCfg (u mode : Nib) (a n m : Word) (s : State) : Result :=
  command s
    ([unitCheck u Config.firUnits,
      fieldCheck (decide (mode.toNat ≤ 1)) 0,
      fieldCheck (tapCountOk n) 4,
      fieldCheck (decide (mode = 0#4 → m.toNat < Config.dlUnits)) 5,
      fieldCheck (decide (mode = 1#4 →
        1 ≤ m.toNat ∧ m.toNat ≤ Config.firMaxBlock ∧ n.toNat ≤ m.toNat + 1)) 5] ++
      regionChecks [realRegion a n.toNat])
    (s.setFir u.toNat (configuredFir mode (readReals s.dmem a.toNat n.toNat) m.toNat))

/-- The time-domain path: each sample is pushed, then the taps are accumulated (R351). -/
def tdRun (taps : List F64) : DelayLine → List Cpx → DelayLine × List Cpx
  | l, [] => (l, [])
  | l, x :: xs =>
    let l' := newSample l x
    let rest := tdRun taps l' xs
    (rest.1, mac l' taps :: rest.2)

/-- One channel of the reference sum of R352: `Σ taps[k] · w[j + ntaps-1 - k]` from `+0.0` in ascending `k`. -/
def fdSum (part : Cpx → F64) (taps : List F64) (w : List Cpx) (j : Nat) : F64 :=
  (List.range taps.length).foldl
    (fun acc k =>
      fadd acc (fmul ((taps[k]?).getD fZero) (part ((w[j + (taps.length - 1) - k]?).getD Cpx.zero)))) fZero

/-- The reference instance of `FD_CONV`, output `j` (R352). -/
def fdReference (taps : List F64) (w : List Cpx) (j : Nat) : Cpx := ⟨fdSum Cpx.re taps w j, fdSum Cpx.im taps w j⟩

/-- One channel of `ideal y[j]` in exact arithmetic, in units of 2^-2148 (R352). -/
def fdIdeal (part : Cpx → F64) (taps : List F64) (w : List Cpx) (j : Nat) : Int :=
  ((List.range taps.length).map fun k =>
    intUnits ((taps[k]?).getD fZero) * intUnits (part ((w[j + (taps.length - 1) - k]?).getD Cpx.zero))).sum

/-- What every value inside a transform of the block is bounded by, the sum of the magnitudes of the taps times that of
the samples, in units of 2^-2148 (log 8). -/
def fdScale (taps : List F64) (w : List Cpx) : Nat :=
  (taps.map unitsOf).sum * (w.map fun z => unitsOf z.re + unitsOf z.im).sum

/-- The block is one on which no implementation overflows: every tap and sample is finite, and the scale is below 2^960,
64 binary orders below the largest binary64 value (log 8). -/
def fdBounded (taps : List F64) (w : List Cpx) : Bool :=
  taps.all isFinite && (w.all fun z => isFinite z.re && isFinite z.im) && decide (fdScale taps w < 2 ^ (2148 + 960))

/-- The largest rounding error of an implementation on a block, in units of 2^-2200; none on a block of scale 0
(log 8). -/
def fdErrorBound (taps : List F64) (w : List Cpx) : Nat :=
  if fdScale taps w = 0 then 0
  else Config.fdRelativeError * fdScale taps w + Config.fdAbsoluteError * 2 ^ 1126

/-- A channel's output differs from the ideal sum "by rounding" (R352). -/
def fdNear (part : Cpx → F64) (taps : List F64) (w : List Cpx) (j : Nat) (y : F64) : Bool :=
  isFinite y && decide ((intUnits y * 2 ^ 1074 - fdIdeal part taps w j).natAbs * 2 ^ 52 ≤ fdErrorBound taps w)

/-- A value an implementation may round output `j` to: near the ideal sum in both channels wherever the block is bounded
(R352; log 8). -/
def fdAllowed (taps : List F64) (w : List Cpx) (j : Nat) (y : Cpx) : Bool :=
  !fdBounded taps w || (fdNear Cpx.re taps w j y.re && fdNear Cpx.im taps w j y.im)

/-- Output `j` of `FD_CONV`: the implementation's own rounding of the ideal sum, else the reference sum (R352, log 8). -/
def fdOutput (taps : List F64) (xtail x : List Cpx) (j : Nat) : Cpx :=
  match Config.fdDeviation taps xtail x j with
  | some y => if fdAllowed taps (xtail ++ x) j y then y else fdReference taps (xtail ++ x) j
  | none => fdReference taps (xtail ++ x) j

/-- The outputs of `FD_CONV` (R352). -/
def fdOutputs (taps : List F64) (xtail x : List Cpx) : List Cpx := (List.range x.length).map (fdOutput taps xtail x)

/-- The state effect of `FD_CONV`, exact in every instance: the last `ntaps - 1` inputs (R352). -/
def fdTail (taps : List F64) (xtail x : List Cpx) : List Cpx :=
  ((xtail ++ x).drop x.length).take (taps.length - 1)

/-- The checks of FIR.RUN before its regions (R351): the engine, then the delay line it uses, then the block size. -/
def firRunChecks (u n : Nat) (unit : Nib) (s : State) : List Check :=
  let f := s.firAt u
  [unitCheck unit Config.firUnits, cfgCheck f.cfg .fir u,
    cfgCheck (f.mode == .fd || (s.dlAt f.dl).cfg) .dl f.dl,
    fieldCheck (f.mode == .td || n == f.blk) 4]

/-- FIR.RUN (R351). -/
def execFirRun (u : Nib) (a d n : Word) (s : State) : Result :=
  let f := s.firAt u.toNat
  let x := readCpxs s.dmem a.toNat n.toNat
  let td := tdRun f.taps (s.dlAt f.dl) x
  command s
    (firRunChecks u.toNat n.toNat u s ++ regionChecks [cpxRegion a n.toNat, cpxRegion d n.toNat])
    (match f.mode with
    | .td => (s.setDl f.dl td.1).setDmem (writeCpxs s.dmem d.toNat td.2)
    | .fd => (s.setFir u.toNat { f with xtail := fdTail f.taps f.xtail x }).setDmem
        (writeCpxs s.dmem d.toNat (fdOutputs f.taps f.xtail x)))

end Sys2Proof.Machine
end

