-- ==== Sys2Proof/Machine/Goertzel.lean ====
section
/-! DEFINITION. The Goertzel tone detector (spec/47_goertzel.md): recursion and power R390-R393, the detectors R394,
and the commands R395, R396. -/

namespace Sys2Proof.Machine

/-- `coeffOf(f, fs)` (R390). -/
def coeffOf (f fs : F64) : F64 := fmul fTwo (cos (fdiv (fmul Config.twoPi f) fs))

/-- One sample into a bin's recursion (R391). -/
def binStep (b : GzBin) (v : F64) : GzBin :=
  { b with s1 := fsub (fadd v (fmul b.coeff b.s1)) b.s2, s2 := b.s1 }

/-- The power of a bin (R392). -/
def binPower (b : GzBin) : F64 :=
  fsub (fadd (fmul b.s1 b.s1) (fmul b.s2 b.s2)) (fmul (fmul b.coeff b.s1) b.s2)

/-- A bin at its end, its recursion state reset (R392). -/
def binReset (b : GzBin) : GzBin := { b with s1 := fZero, s2 := fZero }

/-- The input component of a sample (R393). -/
def gzSelect (insel : GzInput) (z : Cpx) : F64 :=
  match insel with
  | .re => z.re
  | .im => z.im
  | .mag => mag z

/-- A uint32 counter that stops at 2^32-1 (R394). -/
def saturatingSucc (n : Nat) : Nat := Nat.min (n + 1) (2 ^ 32 - 1)

/-- The three-tone detector (R394, mode 1). -/
def threeTone (g : Goertzel) (pc plo phi : F64) : Goertzel :=
  let det := flt (fmul g.k (fdiv (fadd plo phi) fTwo)) pc
  if det != g.bit then
    let c := saturatingSucc g.dcnt
    if Nat.max g.lim 1 ≤ c then { g with bit := det, dcnt := 0 } else { g with dcnt := c }
  else { g with dcnt := 0 }

/-- The running averages and the threshold at their midpoint (R394, mode 2). -/
def adaptAverages (g : Goertzel) (pc : F64) : Goertzel :=
  let det := flt g.thr pc
  let tone := if det then fadd (fmul (fsub fOne g.k) g.toneAvg) (fmul g.k pc) else g.toneAvg
  let none := if det then g.noneAvg else fadd (fmul (fsub fOne g.k) g.noneAvg) (fmul g.k pc)
  { g with toneAvg := tone, noneAvg := none, thr := fdiv (fadd tone none) fTwo }

/-- The adaptive detector (R394, mode 2). -/
def adaptive (g : Goertzel) (pc : F64) : Goertzel :=
  let det := flt g.thr pc
  let g' := adaptAverages g pc
  if det != g.bit then { g' with bit := det, quiet := 0 }
  else
    let q := saturatingSucc g.quiet
    if g.lim != 0 && decide (g.lim ≤ q) then { g' with thr := fdiv g'.thr fTwo, quiet := 0 }
    else { g' with quiet := q }

/-- The detector of a mode, once per completed bin (R394). -/
def detect (g : Goertzel) (pc plo phi : F64) : Goertzel :=
  match g.mode with
  | .single => { g with bit := false }
  | .threeTone => threeTone g pc plo phi
  | .adaptive => adaptive g pc

/-- One 32-byte record: the powers and the decision (R396). -/
structure GzRecord where
  pc : F64
  plo : F64
  phi : F64
  bit : Bool
deriving DecidableEq, Repr

/-- The recursion of the active bins: bin 0, and in mode 1 all three (R396). -/
def gzAccumulate (g : Goertzel) (v : F64) : Goertzel :=
  match g.mode with
  | .threeTone => { g with bin0 := binStep g.bin0 v, bin1 := binStep g.bin1 v, bin2 := binStep g.bin2 v }
  | _ => { g with bin0 := binStep g.bin0 v }

/-- The active bins' recursion state and the sample count reset (R392). -/
def gzResetBins (g : Goertzel) : Goertzel :=
  match g.mode with
  | .threeTone =>
    { g with bin0 := binReset g.bin0, bin1 := binReset g.bin1, bin2 := binReset g.bin2, cnt := 0 }
  | _ => { g with bin0 := binReset g.bin0, cnt := 0 }

/-- The powers `Plo` and `Phi` of a record, `+0.0` outside mode 1 (R396). -/
def offPower (g : Goertzel) (b : GzBin) : F64 :=
  match g.mode with
  | .threeTone => binPower b
  | _ => fZero

/-- The end of a bin: powers, reset, detector, record (R392, R394, R396). -/
def gzBinEnd (g : Goertzel) : Goertzel × GzRecord :=
  let pc := binPower g.bin0
  let plo := offPower g g.bin1
  let phi := offPower g g.bin2
  let g' := detect (gzResetBins g) pc plo phi
  (g', ⟨pc, plo, phi, g'.bit⟩)

/-- One sample into the detector, with the record of the bin it completes (R396). -/
def gzStep (g : Goertzel) (z : Cpx) : Goertzel × Option GzRecord :=
  let g' := gzAccumulate g (gzSelect g.insel z)
  let g'' := { g' with cnt := g'.cnt + 1 }
  if g''.cnt = g''.nbin then ((gzBinEnd g'').1, some (gzBinEnd g'').2) else (g'', none)

/-- The samples in order (R396). -/
def gzRun : Goertzel → List Cpx → Goertzel × List GzRecord
  | g, [] => (g, [])
  | g, z :: zs =>
    let r := gzStep g z
    let rest := gzRun r.1 zs
    (rest.1, r.2.toList ++ rest.2)

/-- A record's layout: three binary64 powers, the decision, zero (R396). -/
def writeGzRecord (m : Memory) (d : Nat) (r : GzRecord) : Memory :=
  wrU (wrU (wrR (wrR (wrR m d r.pc) (d + 8) r.plo) (d + 16) r.phi) (d + 24) (if r.bit then 1 else 0)) (d + 28) 0

/-- The records in ascending order (R396). -/
def writeGzRecords (m : Memory) (d : Nat) : List GzRecord → Memory
  | [] => m
  | r :: rs => writeGzRecords (writeGzRecord m d r) (d + 32) rs

/-! ## Commands -/

/-- The mode of a MODE field (R395); the checks have excluded other values. -/
def gzModeOf (mode : Nib) : GzMode := if mode = 0#4 then .single else if mode = 1#4 then .threeTone else .adaptive

/-- The component of a `P` field (R393, R395); the checks have excluded other values. -/
def gzInputOf (p : Word) : GzInput := if p = 0#32 then .re else if p = 1#32 then .im else .mag

/-- The ratio or weight in effect: `+0.0` selects the default of its mode (R395). -/
def gzK (mode : Nib) (k2 : F64) : F64 :=
  if feq k2 fZero then
    (if mode = 1#4 then Config.gzRatioDefault else if mode = 2#4 then Config.gzAlphaDefault else fZero)
  else k2

/-- Half the bin bandwidth, `fs / (2N)` (R395). -/
def halfBin (fs : F64) (n : Nat) : F64 := fdiv fs (fmul fTwo (ofNatF n))

/-- A bin with its coefficient and a zero recursion state. -/
def freshBin (coeff : F64) : GzBin := ⟨coeff, fZero, fZero⟩

/-- The detector GZ.CFG makes (R395). -/
def configuredGoertzel (mode : Nib) (n m p : Word) (k0 k1 k2 : F64) : Goertzel where
  cfg := true
  mode := gzModeOf mode
  nbin := n.toNat
  insel := gzInputOf p
  bin0 := freshBin (coeffOf k0 k1)
  bin1 := freshBin (if mode = 1#4 then coeffOf (fsub k0 (halfBin k1 n.toNat)) k1 else fZero)
  bin2 := freshBin (if mode = 1#4 then coeffOf (fadd k0 (halfBin k1 n.toNat)) k1 else fZero)
  cnt := 0
  k := gzK mode k2
  lim := m.toNat
  bit := false
  dcnt := 0
  toneAvg := fZero
  noneAvg := fZero
  thr := fZero
  quiet := 0

/-- GZ.CFG (R395). -/
def execGzCfg (u mode : Nib) (n m p : Word) (k0 k1 k2 : F64) (s : State) : Result :=
  command s
    [unitCheck u Config.gzUnits,
      fieldCheck (decide (mode.toNat ≤ 2)) 0,
      fieldCheck (n.toNat != 0) 4,
      fieldCheck (decide (p.toNat ≤ 2)) 6,
      fieldCheck (isFinite k0) 8,
      fieldCheck (isFinite k1 && flt fZero k1) 10,
      fieldCheck (mode != 1#4 || (isFinite k2 && fle fZero k2)) 12,
      fieldCheck (mode != 2#4 || (fle fZero k2 && fle k2 fOne)) 12]
    (s.setGz u.toNat (configuredGoertzel mode n m p k0 k1 k2))

/-- GZ.RUN (R396): one record for each bin the call completes. -/
def execGzRun (u : Nib) (a d n : Word) (s : State) : Result :=
  let g := s.gzAt u.toNat
  let q := (g.cnt + n.toNat) / g.nbin
  let r := gzRun g (readCpxs s.dmem a.toNat n.toNat)
  command s
    ([unitCheck u Config.gzUnits, cfgCheck g.cfg .gz u.toNat] ++
      regionChecks [cpxRegion a n.toNat, rec32Region d q])
    (((s.setGz u.toNat r.1).setDmem (writeGzRecords s.dmem d.toNat r.2)).setCount q)

end Sys2Proof.Machine
end

