-- ==== Sys2Proof/Machine/Iir.lean ====
section
/-! DEFINITION. The IIR engine (spec/46_iir.md): the direct-form recursion R371, the cascade R373, the channels R374,
and the commands R372, R375, R376. -/

namespace Sys2Proof.Machine

/-- The products `c[k] * h[k]` added to the accumulator in ascending order (R371). -/
def addProducts (acc : F64) : List F64 → List F64 → F64
  | c :: cs, h :: hs => addProducts (fadd acc (fmul c h)) cs hs
  | _, _ => acc

/-- The products `c[k] * h[k]` subtracted from the accumulator in ascending order (R371). -/
def subProducts (acc : F64) : List F64 → List F64 → F64
  | c :: cs, h :: hs => subProducts (fsub acc (fmul c h)) cs hs
  | _, _ => acc

/-- A history of `p` entries with a new one in front, the oldest dropped (R371). -/
def shiftIn (p : Nat) (v : F64) (h : List F64) : List F64 := (v :: h).take p

/-- `df(P, b, a, xh, yh, v)` with `b[0] = b0`, `b = b[1..P]`, `a = a[1..P]` (R371). -/
def df (b0 : F64) (b a : List F64) (h : Hist) (v : F64) : Hist × F64 :=
  let acc := subProducts (addProducts (fadd fZero (fmul b0 v)) b h.x) a h.y
  (⟨shiftIn a.length v h.x, shiftIn a.length acc h.y⟩, acc)

/-- One section on one value of one channel (R373). -/
def sectionDf (g : Section) (h : Hist) (v : F64) : Hist × F64 := df g.b0 [g.b1, g.b2] [g.a1, g.a2] h v

/-- The sections in ascending order on the two channels of one sample (R373, R374). -/
def cascadeStep : List Section → Cpx → List Section × Cpx
  | [], z => ([], z)
  | g :: gs, z =>
    let r := sectionDf g g.re z.re
    let i := sectionDf g g.im z.im
    let rest := cascadeStep gs ⟨r.2, i.2⟩
    ({ g with re := r.1, im := i.1 } :: rest.1, rest.2)

/-- One sample through the engine: two independent real channels with the same coefficients (R374, R375). -/
def iirStep (g : Iir) (z : Cpx) : Iir × Cpx :=
  match g.mode with
  | .direct =>
    let r := df ((g.b[0]?).getD fZero) g.b.tail g.a g.re z.re
    let i := df ((g.b[0]?).getD fZero) g.b.tail g.a g.im z.im
    ({ g with re := r.1, im := i.1 }, ⟨r.2, i.2⟩)
  | .cascade =>
    let r := cascadeStep g.sections z
    ({ g with sections := r.1 }, r.2)

/-- The samples in order (R375). -/
def iirRun : Iir → List Cpx → Iir × List Cpx
  | g, [] => (g, [])
  | g, z :: zs =>
    let r := iirStep g z
    let rest := iirRun r.1 zs
    (rest.1, r.2 :: rest.2)

/-- The section loaded from five coefficients `b0, b1, b2, a1, a2`, with zero histories (R372). -/
def loadSection (cs : List F64) (i : Nat) : Section where
  b0 := (cs[5 * i]?).getD fZero
  b1 := (cs[5 * i + 1]?).getD fZero
  b2 := (cs[5 * i + 2]?).getD fZero
  a1 := (cs[5 * i + 3]?).getD fZero
  a2 := (cs[5 * i + 4]?).getD fZero
  re := Hist.zero 2
  im := Hist.zero 2

/-- The engine IIR.CFG makes from its coefficients (R372): DIRECT of order `n`, or `n` sections. -/
def configuredIir (mode : Nib) (n : Nat) (cs : List F64) : Iir :=
  if mode = 0#4 then
    ⟨true, .direct, cs.take (n + 1), (cs.drop (n + 1)).take n, Hist.zero n, Hist.zero n, []⟩
  else ⟨true, .cascade, [], [], Hist.zero 0, Hist.zero 0, (List.range n).map (loadSection cs)⟩

/-- How many coefficients IIR.CFG reads (R372). -/
def iirCoeffCount (mode : Nib) (n : Nat) : Nat := if mode = 0#4 then 2 * n + 1 else 5 * n

/-- IIR.CFG (R372). -/
def execIirCfg (u mode : Nib) (a n : Word) (s : State) : Result :=
  let cnt := iirCoeffCount mode n.toNat
  command s
    ([unitCheck u Config.iirUnits,
      fieldCheck (decide (mode.toNat ≤ 1)) 0,
      fieldCheck (decide (mode = 0#4 → 1 ≤ n.toNat ∧ n.toNat ≤ Config.iirMaxOrder)) 4,
      fieldCheck (decide (mode = 1#4 → 1 ≤ n.toNat ∧ n.toNat ≤ Config.iirMaxSections)) 4] ++
      regionChecks [realRegion a cnt])
    (s.setIir u.toNat (configuredIir mode n.toNat (readReals s.dmem a.toNat cnt)))

/-- The checks of a command on a configured engine. -/
def iirChecks (u : Nib) (s : State) : List Check :=
  [unitCheck u Config.iirUnits, cfgCheck (s.iirAt u.toNat).cfg .iir u.toNat]

/-- IIR.RUN (R375). -/
def execIirRun (u : Nib) (a d n : Word) (s : State) : Result :=
  let r := iirRun (s.iirAt u.toNat) (readCpxs s.dmem a.toNat n.toNat)
  command s (iirChecks u s ++ regionChecks [cpxRegion a n.toNat, cpxRegion d n.toNat])
    ((s.setIir u.toNat r.1).setDmem (writeCpxs s.dmem d.toNat r.2))

/-- Every history zero, coefficients, mode, order and section count kept (R376). -/
def clearHistories (g : Iir) : Iir :=
  { g with
    re := Hist.zero g.order
    im := Hist.zero g.order
    sections := g.sections.map fun c => { c with re := Hist.zero 2, im := Hist.zero 2 } }

/-- IIR.CLR (R376). -/
def execIirClr (u : Nib) (s : State) : Result :=
  command s (iirChecks u s) (s.setIir u.toNat (clearHistories (s.iirAt u.toNat)))

end Sys2Proof.Machine
end

