-- ==== Sys2Proof/Machine/Nco.lean ====
section
/-! DEFINITION. The NCO mixer (spec/48_nco.md): the oscillator R420, R421 and the commands R422-R424. -/

namespace Sys2Proof.Machine

/-- `incOf(f, fs)`, radians per sample (R420). -/
def incOf (f fs : F64) : F64 := fdiv (fmul Config.twoPi f) fs

/-- The phase after one sample: advanced, then wrapped once (R421). -/
def advancePhase (phase inc : F64) : F64 :=
  let p := fadd phase inc
  if fle Config.twoPi p then fsub p Config.twoPi else if flt p fZero then fadd p Config.twoPi else p

/-- The local oscillator `(COS φ, SIN φ)` (R421). -/
def oscillator (phase : F64) : Cpx := ⟨cos phase, sin phase⟩

/-- The samples in order: each mixed at the current phase, which then advances (R421, R424). -/
def mixRun (inc : F64) : F64 → List Cpx → F64 × List Cpx
  | phase, [] => (phase, [])
  | phase, z :: zs =>
    let rest := mixRun inc (advancePhase phase inc) zs
    (rest.1, cmul z (oscillator phase) :: rest.2)

/-- A frequency below the sample rate in magnitude (R422, R423). -/
def freqOk (f fs : F64) : Bool := isFinite f && flt (fneg fs) f && flt f fs

/-- NCO.CFG (R422): `K1` is checked before `K0`. -/
def execNcoCfg (u : Nib) (k0 k1 k2 : F64) (s : State) : Result :=
  command s
    [unitCheck u Config.ncoUnits,
      fieldCheck (isFinite k1 && flt fZero k1) 10,
      fieldCheck (freqOk k0 k1) 8,
      fieldCheck (fle fZero k2 && flt k2 Config.twoPi) 12]
    (s.setNco u.toNat ⟨true, k1, incOf k0 k1, fadd k2 fZero⟩)

/-- The checks of a command on a configured mixer. -/
def ncoChecks (u : Nib) (s : State) : List Check :=
  [unitCheck u Config.ncoUnits, cfgCheck (s.ncoAt u.toNat).cfg .nco u.toNat]

/-- NCO.FREQ (R423): the phase is kept. -/
def execNcoFreq (u : Nib) (k0 : F64) (s : State) : Result :=
  let o := s.ncoAt u.toNat
  command s (ncoChecks u s ++ [fieldCheck (freqOk k0 o.fs) 8]) (s.setNco u.toNat { o with inc := incOf k0 o.fs })

/-- NCO.MIX (R424). -/
def execNcoMix (u : Nib) (a d n : Word) (s : State) : Result :=
  let o := s.ncoAt u.toNat
  let r := mixRun o.inc o.phase (readCpxs s.dmem a.toNat n.toNat)
  command s (ncoChecks u s ++ regionChecks [cpxRegion a n.toNat, cpxRegion d n.toNat])
    ((s.setNco u.toNat { o with phase := r.1 }).setDmem (writeCpxs s.dmem d.toNat r.2))

end Sys2Proof.Machine
end

