-- ==== Sys2Proof/Syntax.lean ====
section
/-! DEFINITION. The commands of spec/30_encoding.md R144, one constructor per row of spec/opcode_table.json, and the
descriptor they are stored in (R140, R141). Operands stand in the order UNIT, MODE, A, B, D, N, M, P, K0, K1, K2,
each command with the fields its row uses. -/

namespace Sys2Proof

/-- The descriptor of R141: sixteen little-endian 32-bit words, a `K` field being two of them. `w7`, `w14` and `w15`
are reserved words. -/
structure Desc where
  w0 : Word
  a : Word
  b : Word
  d : Word
  n : Word
  m : Word
  p : Word
  w7 : Word
  k0 : F64
  k1 : F64
  k2 : F64
  w14 : Word
  w15 : Word
deriving DecidableEq, Repr

/-- The 48 commands (R144, R150). -/
inductive Instr where
  -- control
  | nop
  | halt
  | jump (a : Word)
  | lset (n : Word)
  | loop (a : Word)
  | signal
  -- complex elementwise
  | vadd (a b d n : Word)
  | vsub (a b d n : Word)
  | vmul (a b d n : Word)
  | vdiv (a b d n : Word)
  | vscale (a d n : Word) (k0 : F64)
  | vconj (a d n : Word)
  | vmag (a d n : Word)
  | vsqmag (a d n : Word)
  | vpolar (a d n : Word)
  | vrect (a d n : Word)
  | vclear (d n : Word)
  | vcopy (a d n : Word)
  | vdecim (a d n m : Word)
  -- reductions
  | vnormsqr (a d n : Word)
  | vnorm (a d n : Word)
  | vpeak (a d n : Word)
  | vpeakpwr (a d n : Word)
  -- delay line
  | dlCfg (u : Nib) (n m : Word)
  | dlPush (u : Nib) (a n : Word)
  | dlTap (u : Nib) (d m : Word)
  | dlMac (u : Nib) (a d n : Word)
  -- halfband stage
  | hbCfg (u mode : Nib) (a n m p : Word) (k0 : F64)
  | hbRun (u : Nib) (a d n : Word)
  -- decimator chain
  | chBuild (u : Nib) (d n m p : Word)
  | chProc (u : Nib) (a d n : Word)
  | chInfo (u : Nib) (d : Word)
  -- FIR
  | firCfg (u mode : Nib) (a n m : Word)
  | firRun (u : Nib) (a d n : Word)
  | firGenlp (mode : Nib) (d n : Word) (k0 : F64)
  | firGenhp (mode : Nib) (d n : Word) (k0 : F64)
  | firGenbs (mode : Nib) (d n : Word) (k0 k1 : F64)
  | firGenbp (mode : Nib) (d n : Word) (k0 k1 : F64)
  | firInvert (a d n : Word)
  | firReverse (a d n : Word)
  -- IIR
  | iirCfg (u mode : Nib) (a n : Word)
  | iirRun (u : Nib) (a d n : Word)
  | iirClr (u : Nib)
  -- Goertzel
  | gzCfg (u mode : Nib) (n m p : Word) (k0 k1 k2 : F64)
  | gzRun (u : Nib) (a d n : Word)
  -- NCO
  | ncoCfg (u : Nib) (k0 k1 k2 : F64)
  | ncoFreq (u : Nib) (k0 : F64)
  | ncoMix (u : Nib) (a d n : Word)
deriving DecidableEq, Repr

end Sys2Proof
end

