-- ==== Sys2Proof/Machine/Dispatch.lean ====
section
/-! DEFINITION. The meaning of each command of spec/30_encoding.md R144, one arm per constructor of Instr. -/

namespace Sys2Proof.Machine

def exec (i : Instr) (s : State) : Host.Outcome State Fault Refusal :=
  match i with
  | .nop => Sys2Proof.Machine.execNop s
  | .halt => Sys2Proof.Machine.execHalt s
  | .jump a => Sys2Proof.Machine.execJump a s
  | .lset n => Sys2Proof.Machine.execLset n s
  | .loop a => Sys2Proof.Machine.execLoop a s
  | .signal => Sys2Proof.Machine.execSignal s
  | .vadd a b d n => Sys2Proof.Machine.execVadd a b d n s
  | .vsub a b d n => Sys2Proof.Machine.execVsub a b d n s
  | .vmul a b d n => Sys2Proof.Machine.execVmul a b d n s
  | .vdiv a b d n => Sys2Proof.Machine.execVdiv a b d n s
  | .vscale a d n k0 => Sys2Proof.Machine.execVscale a d n k0 s
  | .vconj a d n => Sys2Proof.Machine.execVconj a d n s
  | .vmag a d n => Sys2Proof.Machine.execVmag a d n s
  | .vsqmag a d n => Sys2Proof.Machine.execVsqmag a d n s
  | .vpolar a d n => Sys2Proof.Machine.execVpolar a d n s
  | .vrect a d n => Sys2Proof.Machine.execVrect a d n s
  | .vclear d n => Sys2Proof.Machine.execVclear d n s
  | .vcopy a d n => Sys2Proof.Machine.execVcopy a d n s
  | .vdecim a d n m => Sys2Proof.Machine.execVdecim a d n m s
  | .vnormsqr a d n => Sys2Proof.Machine.execVnormsqr a d n s
  | .vnorm a d n => Sys2Proof.Machine.execVnorm a d n s
  | .vpeak a d n => Sys2Proof.Machine.execVpeak a d n s
  | .vpeakpwr a d n => Sys2Proof.Machine.execVpeakpwr a d n s
  | .dlCfg u n m => Sys2Proof.Machine.execDlCfg u n m s
  | .dlPush u a n => Sys2Proof.Machine.execDlPush u a n s
  | .dlTap u d m => Sys2Proof.Machine.execDlTap u d m s
  | .dlMac u a d n => Sys2Proof.Machine.execDlMac u a d n s
  | .hbCfg u mode a n m p k0 => Sys2Proof.Machine.execHbCfg u mode a n m p k0 s
  | .hbRun u a d n => Sys2Proof.Machine.execHbRun u a d n s
  | .chBuild u d n m p => Sys2Proof.Machine.execChBuild u d n m p s
  | .chProc u a d n => Sys2Proof.Machine.execChProc u a d n s
  | .chInfo u d => Sys2Proof.Machine.execChInfo u d s
  | .firCfg u mode a n m => Sys2Proof.Machine.execFirCfg u mode a n m s
  | .firRun u a d n => Sys2Proof.Machine.execFirRun u a d n s
  | .firGenlp mode d n k0 => Sys2Proof.Machine.execFirGenlp mode d n k0 s
  | .firGenhp mode d n k0 => Sys2Proof.Machine.execFirGenhp mode d n k0 s
  | .firGenbs mode d n k0 k1 => Sys2Proof.Machine.execFirGenbs mode d n k0 k1 s
  | .firGenbp mode d n k0 k1 => Sys2Proof.Machine.execFirGenbp mode d n k0 k1 s
  | .firInvert a d n => Sys2Proof.Machine.execFirInvert a d n s
  | .firReverse a d n => Sys2Proof.Machine.execFirReverse a d n s
  | .iirCfg u mode a n => Sys2Proof.Machine.execIirCfg u mode a n s
  | .iirRun u a d n => Sys2Proof.Machine.execIirRun u a d n s
  | .iirClr u => Sys2Proof.Machine.execIirClr u s
  | .gzCfg u mode n m p k0 k1 k2 => Sys2Proof.Machine.execGzCfg u mode n m p k0 k1 k2 s
  | .gzRun u a d n => Sys2Proof.Machine.execGzRun u a d n s
  | .ncoCfg u k0 k1 k2 => Sys2Proof.Machine.execNcoCfg u k0 k1 k2 s
  | .ncoFreq u k0 => Sys2Proof.Machine.execNcoFreq u k0 s
  | .ncoMix u a d n => Sys2Proof.Machine.execNcoMix u a d n s

end Sys2Proof.Machine
end

