-- ==== Sys2Proof/WellFormed.lean ====
section
/-! DEFINITION. Which terms of Instr a descriptor can hold. Every operand fits its field by its type; what is left is
R143 for the fields that R144 marks with a mode: "A field marked with a mode is used only in that mode and must be
zero in the others". An out-of-range MODE or UNIT is encodable and faults when the command runs (R145, R451). -/

namespace Sys2Proof

/-- `x` may be non-zero only where `used` (R143). -/
def zeroUnless {w : Nat} (used : Bool) (x : BitVec w) : Bool := used || x == 0#w

/-- HB.CFG (R144 with 90_conflicts.md C9): A and N are used in mode 1, M in mode 0, K0 in modes 1 and 2. -/
def wellFormedHbCfg (mode : Nib) (a n m : Word) (k0 : F64) : Bool :=
  zeroUnless (mode == 1#4) a && zeroUnless (mode == 1#4) n && zeroUnless (mode == 0#4) m &&
    zeroUnless (mode == 1#4 || mode == 2#4) k0

/-- GZ.CFG (R144): M and K2 are used in modes 1 and 2. -/
def wellFormedGzCfg (mode : Nib) (m : Word) (k2 : F64) : Bool :=
  zeroUnless (mode == 1#4 || mode == 2#4) m && zeroUnless (mode == 1#4 || mode == 2#4) k2

/-- The terms some descriptor decodes to (R143). -/
def wellFormed : Instr → Bool
  | .hbCfg _ mode a n m _ k0 => wellFormedHbCfg mode a n m k0
  | .gzCfg _ mode _ m _ _ _ k2 => wellFormedGzCfg mode m k2
  | .nop => true
  | .halt => true
  | .jump _ => true
  | .lset _ => true
  | .loop _ => true
  | .signal => true
  | .vadd _ _ _ _ => true
  | .vsub _ _ _ _ => true
  | .vmul _ _ _ _ => true
  | .vdiv _ _ _ _ => true
  | .vscale _ _ _ _ => true
  | .vconj _ _ _ => true
  | .vmag _ _ _ => true
  | .vsqmag _ _ _ => true
  | .vpolar _ _ _ => true
  | .vrect _ _ _ => true
  | .vclear _ _ => true
  | .vcopy _ _ _ => true
  | .vdecim _ _ _ _ => true
  | .vnormsqr _ _ _ => true
  | .vnorm _ _ _ => true
  | .vpeak _ _ _ => true
  | .vpeakpwr _ _ _ => true
  | .dlCfg _ _ _ => true
  | .dlPush _ _ _ => true
  | .dlTap _ _ _ => true
  | .dlMac _ _ _ _ => true
  | .hbRun _ _ _ _ => true
  | .chBuild _ _ _ _ _ => true
  | .chProc _ _ _ _ => true
  | .chInfo _ _ => true
  | .firCfg _ _ _ _ _ => true
  | .firRun _ _ _ _ => true
  | .firGenlp _ _ _ _ => true
  | .firGenhp _ _ _ _ => true
  | .firGenbs _ _ _ _ _ => true
  | .firGenbp _ _ _ _ _ => true
  | .firInvert _ _ _ => true
  | .firReverse _ _ _ => true
  | .iirCfg _ _ _ _ => true
  | .iirRun _ _ _ _ => true
  | .iirClr _ => true
  | .gzRun _ _ _ _ => true
  | .ncoCfg _ _ _ _ => true
  | .ncoFreq _ _ => true
  | .ncoMix _ _ _ _ => true

end Sys2Proof
end

