-- ==== Sys2Proof/Decode.lean ====
section
/-! DEFINITION. The decoder and the encoder of spec/30_encoding.md, both written from the field table R141 and the
opcode map R144. The decoder is total: every 64-byte value is one command or one fault (R149). -/

namespace Sys2Proof

/-! ## Words and bytes of a descriptor (R102, R140, R141) -/

/-- The 32-bit little-endian word at byte offset `k` of a byte array (R102). -/
def wordOfBytes (byte : Nat → Byte) (k : Nat) : Word :=
  byte (k + 3) ++ byte (k + 2) ++ byte (k + 1) ++ byte k

/-- A `K` field, `f64({W[j+1], W[j]})` with `W[j]` at byte offset `k` (R102, R141). -/
def pairOfBytes (byte : Nat → Byte) (k : Nat) : F64 :=
  wordOfBytes byte (k + 4) ++ wordOfBytes byte k

/-- The descriptor whose 64 bytes are `byte 0`, …, `byte 63`, the first at the lowest address (R140, R141). -/
def Desc.ofBytes (byte : Nat → Byte) : Desc where
  w0 := wordOfBytes byte 0
  a := wordOfBytes byte 4
  b := wordOfBytes byte 8
  d := wordOfBytes byte 12
  n := wordOfBytes byte 16
  m := wordOfBytes byte 20
  p := wordOfBytes byte 24
  w7 := wordOfBytes byte 28
  k0 := pairOfBytes byte 32
  k1 := pairOfBytes byte 40
  k2 := pairOfBytes byte 48
  w14 := wordOfBytes byte 56
  w15 := wordOfBytes byte 60

/-- The low word of a `K` field (R141). -/
def lowWord (x : F64) : Word := x.extractLsb' 0 32

/-- The high word of a `K` field (R141). -/
def highWord (x : F64) : Word := x.extractLsb' 32 32

/-- `W[0..15]` (R140, R141). -/
def Desc.words (d : Desc) : List Word :=
  [d.w0, d.a, d.b, d.d, d.n, d.m, d.p, d.w7, lowWord d.k0, highWord d.k0, lowWord d.k1, highWord d.k1,
    lowWord d.k2, highWord d.k2, d.w14, d.w15]

/-- The four bytes of a word, least significant first (R102). -/
def wordBytes (w : Word) : List Byte :=
  [w.extractLsb' 0 8, w.extractLsb' 8 8, w.extractLsb' 16 8, w.extractLsb' 24 8]

/-- The 64 bytes of a descriptor in address order (R140). -/
def Desc.bytes (d : Desc) : List Byte := d.words.flatMap wordBytes

/-- `OPC`, W[0] bits 7:0 (R141). -/
def Desc.opc (d : Desc) : BitVec 8 := d.w0.extractLsb' 0 8
/-- `UNIT`, W[0] bits 11:8 (R141). -/
def Desc.unit (d : Desc) : Nib := d.w0.extractLsb' 8 4
/-- `MODE`, W[0] bits 15:12 (R141). -/
def Desc.mode (d : Desc) : Nib := d.w0.extractLsb' 12 4
/-- The reserved bits 31:16 of W[0] (R141). -/
def Desc.reserved0 (d : Desc) : BitVec 16 := d.w0.extractLsb' 16 16

/-! ## Decoding (R143, R144, R149) -/

/-- Which fields a command uses (R144). -/
structure Uses where
  unit : Bool := false
  mode : Bool := false
  a : Bool := false
  b : Bool := false
  d : Bool := false
  n : Bool := false
  m : Bool := false
  p : Bool := false
  k0 : Bool := false
  k1 : Bool := false
  k2 : Bool := false
deriving DecidableEq, Repr

/-- The opcode map R144: the fields the opcode uses and the command it names; `none` for an OPC value that is not in
it (R145). For HB.CFG and GZ.CFG some fields are used only in some modes; HB.CFG's K0 follows 90_conflicts.md C9. -/
def opcodeRow (d : Desc) : Option (Uses × Instr) :=
  match d.opc.toNat with
  | 0x00 => some ({ }, .nop)
  | 0x01 => some ({ }, .halt)
  | 0x02 => some ({ a := true }, .jump d.a)
  | 0x03 => some ({ n := true }, .lset d.n)
  | 0x04 => some ({ a := true }, .loop d.a)
  | 0x05 => some ({ }, .signal)
  | 0x10 => some ({ a := true, b := true, d := true, n := true }, .vadd d.a d.b d.d d.n)
  | 0x11 => some ({ a := true, b := true, d := true, n := true }, .vsub d.a d.b d.d d.n)
  | 0x12 => some ({ a := true, b := true, d := true, n := true }, .vmul d.a d.b d.d d.n)
  | 0x13 => some ({ a := true, b := true, d := true, n := true }, .vdiv d.a d.b d.d d.n)
  | 0x14 => some ({ a := true, d := true, n := true, k0 := true }, .vscale d.a d.d d.n d.k0)
  | 0x15 => some ({ a := true, d := true, n := true }, .vconj d.a d.d d.n)
  | 0x16 => some ({ a := true, d := true, n := true }, .vmag d.a d.d d.n)
  | 0x17 => some ({ a := true, d := true, n := true }, .vsqmag d.a d.d d.n)
  | 0x18 => some ({ a := true, d := true, n := true }, .vpolar d.a d.d d.n)
  | 0x19 => some ({ a := true, d := true, n := true }, .vrect d.a d.d d.n)
  | 0x1A => some ({ d := true, n := true }, .vclear d.d d.n)
  | 0x1B => some ({ a := true, d := true, n := true }, .vcopy d.a d.d d.n)
  | 0x1C => some ({ a := true, d := true, n := true, m := true }, .vdecim d.a d.d d.n d.m)
  | 0x20 => some ({ a := true, d := true, n := true }, .vnormsqr d.a d.d d.n)
  | 0x21 => some ({ a := true, d := true, n := true }, .vnorm d.a d.d d.n)
  | 0x22 => some ({ a := true, d := true, n := true }, .vpeak d.a d.d d.n)
  | 0x23 => some ({ a := true, d := true, n := true }, .vpeakpwr d.a d.d d.n)
  | 0x30 => some ({ unit := true, n := true, m := true }, .dlCfg d.unit d.n d.m)
  | 0x31 => some ({ unit := true, a := true, n := true }, .dlPush d.unit d.a d.n)
  | 0x32 => some ({ unit := true, d := true, m := true }, .dlTap d.unit d.d d.m)
  | 0x33 => some ({ unit := true, a := true, d := true, n := true }, .dlMac d.unit d.a d.d d.n)
  | 0x40 =>
    some ({ unit := true, mode := true, a := d.mode == 1#4, n := d.mode == 1#4, m := d.mode == 0#4, p := true,
            k0 := d.mode == 1#4 || d.mode == 2#4 },
      .hbCfg d.unit d.mode d.a d.n d.m d.p d.k0)
  | 0x41 => some ({ unit := true, a := true, d := true, n := true }, .hbRun d.unit d.a d.d d.n)
  | 0x50 => some ({ unit := true, d := true, n := true, m := true, p := true }, .chBuild d.unit d.d d.n d.m d.p)
  | 0x51 => some ({ unit := true, a := true, d := true, n := true }, .chProc d.unit d.a d.d d.n)
  | 0x52 => some ({ unit := true, d := true }, .chInfo d.unit d.d)
  | 0x60 => some ({ unit := true, mode := true, a := true, n := true, m := true }, .firCfg d.unit d.mode d.a d.n d.m)
  | 0x61 => some ({ unit := true, a := true, d := true, n := true }, .firRun d.unit d.a d.d d.n)
  | 0x62 => some ({ mode := true, d := true, n := true, k0 := true }, .firGenlp d.mode d.d d.n d.k0)
  | 0x63 => some ({ mode := true, d := true, n := true, k0 := true }, .firGenhp d.mode d.d d.n d.k0)
  | 0x64 => some ({ mode := true, d := true, n := true, k0 := true, k1 := true }, .firGenbs d.mode d.d d.n d.k0 d.k1)
  | 0x65 => some ({ mode := true, d := true, n := true, k0 := true, k1 := true }, .firGenbp d.mode d.d d.n d.k0 d.k1)
  | 0x66 => some ({ a := true, d := true, n := true }, .firInvert d.a d.d d.n)
  | 0x67 => some ({ a := true, d := true, n := true }, .firReverse d.a d.d d.n)
  | 0x70 => some ({ unit := true, mode := true, a := true, n := true }, .iirCfg d.unit d.mode d.a d.n)
  | 0x71 => some ({ unit := true, a := true, d := true, n := true }, .iirRun d.unit d.a d.d d.n)
  | 0x72 => some ({ unit := true }, .iirClr d.unit)
  | 0x80 =>
    some ({ unit := true, mode := true, n := true, m := d.mode == 1#4 || d.mode == 2#4, p := true, k0 := true,
            k1 := true, k2 := d.mode == 1#4 || d.mode == 2#4 },
      .gzCfg d.unit d.mode d.n d.m d.p d.k0 d.k1 d.k2)
  | 0x81 => some ({ unit := true, a := true, d := true, n := true }, .gzRun d.unit d.a d.d d.n)
  | 0x90 => some ({ unit := true, k0 := true, k1 := true, k2 := true }, .ncoCfg d.unit d.k0 d.k1 d.k2)
  | 0x91 => some ({ unit := true, k0 := true }, .ncoFreq d.unit d.k0)
  | 0x92 => some ({ unit := true, a := true, d := true, n := true }, .ncoMix d.unit d.a d.d d.n)
  | _ => none

/-- Each word index with whether its unused and reserved bits are zero, in ascending order (R143). A `K` field counts
at the index of its low word. -/
def zeroChecks (d : Desc) (u : Uses) : List (Nat × Bool) :=
  [(0, d.reserved0 == 0#16 && zeroUnless u.unit d.unit && zeroUnless u.mode d.mode),
    (1, zeroUnless u.a d.a), (2, zeroUnless u.b d.b), (3, zeroUnless u.d d.d), (4, zeroUnless u.n d.n),
    (5, zeroUnless u.m d.m), (6, zeroUnless u.p d.p), (7, d.w7 == 0#32), (8, zeroUnless u.k0 d.k0),
    (10, zeroUnless u.k1 d.k1), (12, zeroUnless u.k2 d.k2), (14, d.w14 == 0#32), (15, d.w15 == 0#32)]

/-- The lowest word index holding a non-zero unused or reserved field (R143). -/
def firstViolation (d : Desc) (u : Uses) : Option Nat :=
  ((zeroChecks d u).find? fun c => !c.2).map Prod.fst

/-- What a descriptor decodes to: one command, or one of the two faults of decoding (R149). -/
inductive Decoded where
  /-- A command of R144. -/
  | command (i : Instr)
  /-- `ILLEGAL_OPCODE`, with its info `W[0]` (R145). -/
  | illegalOpcode (w0 : Word)
  /-- `RESERVED_NONZERO`, with its info, the word index (R143). -/
  | reservedNonzero (word : Nat)
deriving DecidableEq, Repr

/-- The decoder of R149: the opcode first, then the reserved and unused fields. -/
def decode (d : Desc) : Decoded :=
  match opcodeRow d with
  | none => .illegalOpcode d.w0
  | some (u, i) =>
    match firstViolation d u with
    | some k => .reservedNonzero k
    | none => .command i

/-- Byte `k` of a number, byte 0 the least significant. -/
def natByte (w : Nat) : Nat → Byte
  | 0 => BitVec.ofNat 8 w
  | k + 1 => natByte (w / 256) k

/-- The instruction the decoder reads from an instruction whose first `nbits` bits are `w`, bit 0 the least
significant bit of W[0], every bit above them zero: the bytes are laid out as DMEM holds them (R102, R140). -/
def decodeTableWord (nbits w : Nat) : Option Instr :=
  match decode (Desc.ofBytes fun k => if 8 * k < nbits then natByte w k else 0#8) with
  | .command i => some i
  | _ => none

/-! ## Encoding (R141, R144) -/

/-- W[0] from OPC, UNIT and MODE, bits 31:16 zero (R141). -/
def encodeW0 (opc : BitVec 8) (unit mode : Nib) : Word := 0#16 ++ mode ++ unit ++ opc

/-- The descriptor with every word zero. -/
def zeroDesc : Desc := ⟨0, 0, 0, 0, 0, 0, 0, 0, 0, 0, 0, 0, 0⟩

/-- The descriptor of a command: its fields in the places R141 gives, everything else zero (R143). -/
def encodeDesc : Instr → Desc
  | .nop => { zeroDesc with w0 := encodeW0 0x00#8 0#4 0#4 }
  | .halt => { zeroDesc with w0 := encodeW0 0x01#8 0#4 0#4 }
  | .jump a => { zeroDesc with w0 := encodeW0 0x02#8 0#4 0#4, a := a }
  | .lset n => { zeroDesc with w0 := encodeW0 0x03#8 0#4 0#4, n := n }
  | .loop a => { zeroDesc with w0 := encodeW0 0x04#8 0#4 0#4, a := a }
  | .signal => { zeroDesc with w0 := encodeW0 0x05#8 0#4 0#4 }
  | .vadd a b d n => { zeroDesc with w0 := encodeW0 0x10#8 0#4 0#4, a := a, b := b, d := d, n := n }
  | .vsub a b d n => { zeroDesc with w0 := encodeW0 0x11#8 0#4 0#4, a := a, b := b, d := d, n := n }
  | .vmul a b d n => { zeroDesc with w0 := encodeW0 0x12#8 0#4 0#4, a := a, b := b, d := d, n := n }
  | .vdiv a b d n => { zeroDesc with w0 := encodeW0 0x13#8 0#4 0#4, a := a, b := b, d := d, n := n }
  | .vscale a d n k0 => { zeroDesc with w0 := encodeW0 0x14#8 0#4 0#4, a := a, d := d, n := n, k0 := k0 }
  | .vconj a d n => { zeroDesc with w0 := encodeW0 0x15#8 0#4 0#4, a := a, d := d, n := n }
  | .vmag a d n => { zeroDesc with w0 := encodeW0 0x16#8 0#4 0#4, a := a, d := d, n := n }
  | .vsqmag a d n => { zeroDesc with w0 := encodeW0 0x17#8 0#4 0#4, a := a, d := d, n := n }
  | .vpolar a d n => { zeroDesc with w0 := encodeW0 0x18#8 0#4 0#4, a := a, d := d, n := n }
  | .vrect a d n => { zeroDesc with w0 := encodeW0 0x19#8 0#4 0#4, a := a, d := d, n := n }
  | .vclear d n => { zeroDesc with w0 := encodeW0 0x1A#8 0#4 0#4, d := d, n := n }
  | .vcopy a d n => { zeroDesc with w0 := encodeW0 0x1B#8 0#4 0#4, a := a, d := d, n := n }
  | .vdecim a d n m => { zeroDesc with w0 := encodeW0 0x1C#8 0#4 0#4, a := a, d := d, n := n, m := m }
  | .vnormsqr a d n => { zeroDesc with w0 := encodeW0 0x20#8 0#4 0#4, a := a, d := d, n := n }
  | .vnorm a d n => { zeroDesc with w0 := encodeW0 0x21#8 0#4 0#4, a := a, d := d, n := n }
  | .vpeak a d n => { zeroDesc with w0 := encodeW0 0x22#8 0#4 0#4, a := a, d := d, n := n }
  | .vpeakpwr a d n => { zeroDesc with w0 := encodeW0 0x23#8 0#4 0#4, a := a, d := d, n := n }
  | .dlCfg u n m => { zeroDesc with w0 := encodeW0 0x30#8 u 0#4, n := n, m := m }
  | .dlPush u a n => { zeroDesc with w0 := encodeW0 0x31#8 u 0#4, a := a, n := n }
  | .dlTap u d m => { zeroDesc with w0 := encodeW0 0x32#8 u 0#4, d := d, m := m }
  | .dlMac u a d n => { zeroDesc with w0 := encodeW0 0x33#8 u 0#4, a := a, d := d, n := n }
  | .hbCfg u mode a n m p k0 => { zeroDesc with w0 := encodeW0 0x40#8 u mode, a := a, n := n, m := m, p := p, k0 := k0 }
  | .hbRun u a d n => { zeroDesc with w0 := encodeW0 0x41#8 u 0#4, a := a, d := d, n := n }
  | .chBuild u d n m p => { zeroDesc with w0 := encodeW0 0x50#8 u 0#4, d := d, n := n, m := m, p := p }
  | .chProc u a d n => { zeroDesc with w0 := encodeW0 0x51#8 u 0#4, a := a, d := d, n := n }
  | .chInfo u d => { zeroDesc with w0 := encodeW0 0x52#8 u 0#4, d := d }
  | .firCfg u mode a n m => { zeroDesc with w0 := encodeW0 0x60#8 u mode, a := a, n := n, m := m }
  | .firRun u a d n => { zeroDesc with w0 := encodeW0 0x61#8 u 0#4, a := a, d := d, n := n }
  | .firGenlp mode d n k0 => { zeroDesc with w0 := encodeW0 0x62#8 0#4 mode, d := d, n := n, k0 := k0 }
  | .firGenhp mode d n k0 => { zeroDesc with w0 := encodeW0 0x63#8 0#4 mode, d := d, n := n, k0 := k0 }
  | .firGenbs mode d n k0 k1 => { zeroDesc with w0 := encodeW0 0x64#8 0#4 mode, d := d, n := n, k0 := k0, k1 := k1 }
  | .firGenbp mode d n k0 k1 => { zeroDesc with w0 := encodeW0 0x65#8 0#4 mode, d := d, n := n, k0 := k0, k1 := k1 }
  | .firInvert a d n => { zeroDesc with w0 := encodeW0 0x66#8 0#4 0#4, a := a, d := d, n := n }
  | .firReverse a d n => { zeroDesc with w0 := encodeW0 0x67#8 0#4 0#4, a := a, d := d, n := n }
  | .iirCfg u mode a n => { zeroDesc with w0 := encodeW0 0x70#8 u mode, a := a, n := n }
  | .iirRun u a d n => { zeroDesc with w0 := encodeW0 0x71#8 u 0#4, a := a, d := d, n := n }
  | .iirClr u => { zeroDesc with w0 := encodeW0 0x72#8 u 0#4 }
  | .gzCfg u mode n m p k0 k1 k2 =>
    { zeroDesc with w0 := encodeW0 0x80#8 u mode, n := n, m := m, p := p, k0 := k0, k1 := k1, k2 := k2 }
  | .gzRun u a d n => { zeroDesc with w0 := encodeW0 0x81#8 u 0#4, a := a, d := d, n := n }
  | .ncoCfg u k0 k1 k2 => { zeroDesc with w0 := encodeW0 0x90#8 u 0#4, k0 := k0, k1 := k1, k2 := k2 }
  | .ncoFreq u k0 => { zeroDesc with w0 := encodeW0 0x91#8 u 0#4, k0 := k0 }
  | .ncoMix u a d n => { zeroDesc with w0 := encodeW0 0x92#8 u 0#4, a := a, d := d, n := n }

/-- The words `W[0..15]` of a command (R140). -/
def encode (i : Instr) : List Word := (encodeDesc i).words

/-- The 64 bytes of a command as DMEM holds them (R102, R140). -/
def encodeBytes (i : Instr) : List Byte := (encodeDesc i).bytes

end Sys2Proof
end

