-- ==== Sys2Proof/Machine/HostPort.lean ====
section
/-! DEFINITION. The host's side of the block: the control-register space (spec/10_state.md R46-R61) and the host's
moves (spec/60_exceptions.md R480-R483, spec/70_reset_and_hazards.md R500, R502). -/

namespace Sys2Proof.Machine

/-! ## Reading a control register -/

/-- `CAPS0` (R53). -/
def caps0 : Word :=
  BitVec.ofNat 32 (Config.chainUnits + 2 ^ 4 * Config.hbUnits + 2 ^ 8 * Config.dlUnits + 2 ^ 12 * Config.firUnits +
    2 ^ 16 * Config.iirUnits + 2 ^ 20 * Config.gzUnits + 2 ^ 24 * Config.ncoUnits)

/-- `CAPS1` (R54). -/
def caps1 : Word := BitVec.ofNat 32 (Config.dmemLog2 + 2 ^ 8 * Config.maxStages)

/-- The register value a host read returns (R46); CTRL and the reserved offsets read 0 (R49, R50). -/
def readCsr (s : State) (offset : BitVec 8) : Word :=
  match offset.toNat with
  | 0x00 => Config.idValue
  | 0x04 => Config.versionValue
  | 0x08 => caps0
  | 0x0C => caps1
  | 0x14 => statusWord s.status
  | 0x18 => s.cp
  | 0x1C => s.lc
  | 0x20 => causeWord s.cause
  | 0x24 => s.faultCp
  | 0x28 => s.faultInfo
  | 0x2C => s.lastCount
  | 0x30 => irqWord s.irqEn
  | 0x34 => irqWord s.irqPend
  | 0x38 => s.retired.extractLsb' 0 32
  | 0x3C => s.retired.extractLsb' 32 32
  | _ => 0#32

/-! ## Writing a control register -/

/-- A write to `CTRL`: of the action bits set, only the highest-priority one acts, SRESET (bit 2), then ABORT (bit 1),
then START (bit 0) (R50, R482, R483, R502). -/
def writeCtrl (s : State) (v : Word) : State :=
  if v.getLsbD 2 then (if s.status.busy then { s with sresetReq := true } else softReset s)
  else if v.getLsbD 1 then (if s.status.busy then { s with abortReq := true } else s)
  else if v.getLsbD 0 then (if !s.status.busy && !s.status.fault then startRun s else s)
  else s

/-- A host write of a register (R46, R47, R480); read-only registers and reserved offsets ignore it. -/
def writeCsr (s : State) (offset : BitVec 8) (v : Word) : State :=
  match offset.toNat with
  | 0x10 => writeCtrl s v
  | 0x14 => { s with status := clearStatus s.status v }
  | 0x18 => if s.status.busy then s else { s with cp := v }
  | 0x1C => if s.status.busy then s else { s with lc := v }
  | 0x30 => { s with irqEn := irqOfWord v }
  | 0x34 => { s with irqPend := clearPending s.irqPend v }
  | _ => s

/-! ## Resets and moves -/

/-- Hardware reset (R500): as after reset, with DMEM holding what the platform leaves in it. -/
def hardwareReset (s : State) (dmem : List Host.Cell) : State :=
  { State.reset with dmem := Memory.ofCells dmem, inputs := s.inputs, response := s.response }

/-- An aligned 32-bit access (R48). -/
def csrAccessOk (offset : BitVec 8) (width : Nat) : Bool := width == 4 && offset.toNat % 4 == 0

/-- A byte range of DMEM (R100). -/
def dmemRangeOk (addr count : Nat) : Bool := decide (addr + count ≤ Config.dmemBytes)

/-- One move of the host (R480). -/
def hostMove (mv : HostMove) (s : State) : Result :=
  match mv with
  | .readCsr offset width =>
    if csrAccessOk offset width then .next { s with response := .word (readCsr s offset) }
    else .refused .csrAccessShape
  | .writeCsr offset width v =>
    if csrAccessOk offset width then .next (writeCsr s offset v) else .refused .csrAccessShape
  | .readDmem addr count =>
    if s.status.busy then .refused .dmemWhileBusy
    else if dmemRangeOk addr count then .next { s with response := .bytes (readBytes s.dmem addr count) }
    else .fault .hostOutsideDmem
  | .writeDmem addr bytes =>
    if s.status.busy then .refused .dmemWhileBusy
    else if dmemRangeOk addr bytes.length then .next (s.setDmem (writeBytes s.dmem addr bytes))
    else .fault .hostOutsideDmem
  | .observeIrq => .next { s with response := .line (irqLine s) }
  | .hardwareReset dmem => .next (hardwareReset s dmem)

end Sys2Proof.Machine
end

