-- ==== Sys2Proof/Machine/Sequencer.lean ====
section
/-! DEFINITION. The sequencer's step around a command (spec/60_exceptions.md R450, R453, R454, R456, R458): whose turn
it is, the latches at the boundary, the fetch, the decoder, and the boundary after the command. -/

namespace Sys2Proof.Machine

/-- What a step does before any command runs: it is settled, or the command `i` runs in `s`. -/
inductive Action where
  | settled (o : Result)
  | run (i : Instr) (s : State)

/-- The fetch faults, info `CP` (R454). -/
def fetchChecks (s : State) : List Check :=
  [⟨s.cp.toNat % 64 == 0, .fetchMisaligned, s.cp⟩,
    ⟨decide (s.cp.toNat + 64 ≤ Config.dmemBytes), .fetchRange, s.cp⟩]

/-- The descriptor at `CP` (R102, R140, R453). -/
def fetchDesc (s : State) : Desc := Desc.ofBytes fun k => readByte s.dmem (s.cp.toNat + k)

/-- A fault of fetching or decoding, and the boundary after it (R460). -/
def stopWith (c : Cause) (v : Word) (s : State) : Action := .settled (.next (atBoundary (takeFault c v s)))

/-- Decoding the fetched descriptor (R149). -/
def decodeAction (s : State) : Action :=
  match decode (fetchDesc s) with
  | .illegalOpcode w => stopWith .illegalOpcode w s
  | .reservedNonzero k => stopWith .reservedNonzero (BitVec.ofNat 32 k) s
  | .command i => .run i s

/-- The sequencer's turn (R450, R458): idle while `BUSY = 0` (R453, R495); else a pending soft reset, then a pending
abort, then the fetch. -/
def sequencerAction (s : State) : Action :=
  if !s.status.busy then .settled (.next s)
  else if s.sresetReq then .settled (.next (softReset s))
  else if s.abortReq then .settled (.next (abortRun s))
  else
    match firstFault (fetchChecks s) with
    | some (c, v) => stopWith c v s
    | none => decodeAction s

/-- Whose turn it is: the next host slot's move, else the sequencer's (R480; log 14). -/
def nextAction (s : State) : Action :=
  match s.inputs with
  | some mv :: rest => .settled (hostMove mv { s with inputs := rest })
  | none :: rest => sequencerAction { s with inputs := rest }
  | [] => sequencerAction s

/-- The boundary after a command (R450). -/
def afterCommand : Result → Result
  | .next s => .next (atBoundary s)
  | .fault f => .fault f
  | .refused r => .refused r

/-! ## Placing a descriptor to run -/

/-- Where the next fetch can read: `CP` where a fetch from it is legal (R454), else 0. -/
def fetchAddr (s : State) : Word := if (firstFault (fetchChecks s)).isSome then 0#32 else s.cp

/-- The 64 bytes of a descriptor whose first `nbits` bits, whole bytes, are `w`, the others zero (R102, R140). -/
def tableBytes (nbits w : Nat) : List Byte :=
  (bytesLE (nbits / 8) w ++ List.replicate (64 - nbits / 8) 0#8).take 64

/-- The state a host leaves that has stored the 64 bytes of `w` (bits from `nbits` up zero) where the sequencer fetches
next and has started it (R482, R504): the sequencer is running with no host move and no latch pending. -/
def placeWord (s : State) (nbits w : Nat) : State :=
  { startRun s with
    status := { busy := true, fault := false, done := false, aborted := false }
    cp := fetchAddr s
    abortReq := false
    sresetReq := false
    dmem := writeBytes s.dmem (fetchAddr s).toNat (tableBytes nbits w)
    inputs := [] }

end Sys2Proof.Machine
end

