-- ==== Sys2Proof/Machine/Step.lean ====
section
/-! DEFINITION. One step of the block (spec/60_exceptions.md R450, R480): a host move, or the sequencer's turn. -/

namespace Sys2Proof.Machine

/-- One step: the action Sequencer.lean decides on, and where that is to run a command, its meaning and the boundary
after it. -/
def step (s : State) : Host.Outcome State Fault Refusal :=
  match nextAction s with
  | .settled o => o
  | .run i s' => afterCommand (exec i s')

/-- `s` with the instruction of `nbits` bits `w` where the next step fetches, and that step being the sequencer's. -/
def State.withFetchWord (s : State) (nbits w : Nat) : State := placeWord s nbits w

end Sys2Proof.Machine
end

