-- ==== Sys2Proof/Machine/Assembler.lean ====
section
/-! DEFINITION. The assembler of spec/30_encoding.md R147 with the pseudo-instructions of R148: from source text to the
bytes it places in DMEM. It answers `none` for text it rejects. What R147 leaves open (the form of a name, separators
beside spaces and commas, labels in `.org`, `.align` and `.zero`, bytes skipped before a command, values too large, a field
named twice, the end of a text) is listed in log 20. -/

namespace Sys2Proof.Machine

/-! ## Characters and tokens -/

/-- Spaces and commas separate fields and values (R147). Tabs and carriage returns, which R147 does not name, separate
too (DESIGN CHOICE, log 20). -/
def isSeparator (c : Char) : Bool := c == ' ' || c == '\t' || c == '\r' || c == ','

/-- The parts of a text between the characters that satisfy `p`, empty parts included. -/
def splitOn (p : Char → Bool) : List Char → List (List Char)
  | [] => [[]]
  | c :: cs =>
    match splitOn p cs with
    | [] => [[c]]
    | part :: parts => if p c then [] :: part :: parts else (c :: part) :: parts

/-- The non-empty parts between separators. -/
def tokens (line : List Char) : List (List Char) := (splitOn isSeparator line).filter fun t => !t.isEmpty

/-- A line without its comment (R147). -/
def stripComment (line : List Char) : List Char := line.takeWhile fun c => c != ';'

/-- A label's name: letters, digits, `_` and `.`, not starting with a digit. -/
def isName : List Char → Bool
  | [] => false
  | c :: cs => !c.isDigit && (c :: cs).all fun x => x.isAlphanum || x == '_' || x == '.'

/-! ## Numbers -/

/-- The value of a digit in a base up to 16. -/
def digitValue (base : Nat) (c : Char) : Option Nat :=
  let v :=
    if c.isDigit then c.toNat - '0'.toNat
    else if c.toLower.isAlpha then c.toLower.toNat - 'a'.toNat + 10
    else base
  if v < base then some v else none

/-- Digits after the value `acc`. -/
def digitsFrom (base : Nat) : (acc : Nat) → List Char → Option Nat
  | acc, [] => some acc
  | acc, c :: cs =>
    match digitValue base c with
    | some v => digitsFrom base (acc * base + v) cs
    | none => none

/-- One or more digits. -/
def digits (base : Nat) (cs : List Char) : Option Nat := if cs.isEmpty then none else digitsFrom base 0 cs

/-- An integer or a label (R147). -/
inductive IntArg where
  | value (n : Nat)
  | label (name : List Char)
deriving DecidableEq, Repr

/-- Decimal, `0x` hexadecimal with digits of either case, or a label (R147; the case is log 20). -/
def parseInt : List Char → Option IntArg
  | '0' :: 'x' :: cs => (digits 16 cs).map .value
  | cs =>
    match digits 10 cs with
    | some n => some (.value n)
    | none => if isName cs then some (.label cs) else none

/-- The binary64 value nearest `± m * 10^(up - down)`, ties to even (R147). -/
def nearestF64 (neg : Bool) (m up down : Nat) : F64 :=
  if m = 0 then packSign neg 0 else roundUnits neg (m * 10 ^ up * 2 ^ 1074) (10 ^ down)

/-- A decimal exponent: its amount up and its amount down. -/
def parseExponent : List Char → Option (Nat × Nat)
  | '-' :: cs => (digits 10 cs).map fun e => (0, e)
  | '+' :: cs => (digits 10 cs).map fun e => (e, 0)
  | cs => (digits 10 cs).map fun e => (e, 0)

/-- The mantissa's digits as a number, with the count of its fraction digits. -/
def parseMantissa (cs : List Char) : Option (Nat × Nat) :=
  match splitOn (fun c => c == '.') cs with
  | [whole] => (digits 10 whole).map fun m => (m, 0)
  | [whole, frac] => (digits 10 (whole ++ frac)).map fun m => (m, frac.length)
  | _ => none

/-- An unsigned decimal floating literal. -/
def parseDecimal (neg : Bool) (cs : List Char) : Option F64 :=
  match splitOn (fun c => c == 'e' || c == 'E') cs with
  | [mantissa] => (parseMantissa mantissa).map fun r => nearestF64 neg r.1 0 r.2
  | [mantissa, exponent] =>
    match parseMantissa mantissa, parseExponent exponent with
    | some r, some e => some (nearestF64 neg r.1 e.1 (e.2 + r.2))
    | _, _ => none
  | _ => none

/-- A `k` value: a decimal floating literal, or `0x` and 16 hexadecimal digits, the bit pattern (R147). A literal too
large is an infinity (DESIGN CHOICE, log 20). -/
def parseF64 : List Char → Option F64
  | '0' :: 'x' :: cs => if cs.length = 16 then (digits 16 cs).map (BitVec.ofNat 64) else none
  | '-' :: cs => parseDecimal true cs
  | '+' :: cs => parseDecimal false cs
  | cs => parseDecimal false cs

/-! ## Commands -/

/-- The field names of R147. -/
inductive FieldName where
  | u
  | mode
  | a
  | b
  | d
  | n
  | m
  | p
  | k0
  | k1
  | k2
deriving DecidableEq, Repr

def fieldNames : List (String × FieldName) :=
  [("u", .u), ("mode", .mode), ("a", .a), ("b", .b), ("d", .d), ("n", .n), ("m", .m), ("p", .p), ("k0", .k0),
    ("k1", .k1), ("k2", .k2)]

/-- A field's value as written. -/
inductive FieldValue where
  | int (x : IntArg)
  | float (x : F64)
deriving DecidableEq, Repr

/-- A field of a command line. -/
abbrev Field := FieldName × FieldValue

/-- The opcode of each mnemonic (R144). -/
def mnemonics : List (String × BitVec 8) :=
  [("NOP", 0x00#8), ("HALT", 0x01#8), ("JUMP", 0x02#8), ("LSET", 0x03#8), ("LOOP", 0x04#8), ("SIGNAL", 0x05#8),
    ("VADD", 0x10#8), ("VSUB", 0x11#8), ("VMUL", 0x12#8), ("VDIV", 0x13#8), ("VSCALE", 0x14#8), ("VCONJ", 0x15#8),
    ("VMAG", 0x16#8), ("VSQMAG", 0x17#8), ("VPOLAR", 0x18#8), ("VRECT", 0x19#8), ("VCLEAR", 0x1A#8),
    ("VCOPY", 0x1B#8), ("VDECIM", 0x1C#8), ("VNORMSQR", 0x20#8), ("VNORM", 0x21#8), ("VPEAK", 0x22#8),
    ("VPEAKPWR", 0x23#8), ("DL.CFG", 0x30#8), ("DL.PUSH", 0x31#8), ("DL.TAP", 0x32#8), ("DL.MAC", 0x33#8),
    ("HB.CFG", 0x40#8), ("HB.RUN", 0x41#8), ("CH.BUILD", 0x50#8), ("CH.PROC", 0x51#8), ("CH.INFO", 0x52#8),
    ("FIR.CFG", 0x60#8), ("FIR.RUN", 0x61#8), ("FIR.GENLP", 0x62#8), ("FIR.GENHP", 0x63#8), ("FIR.GENBS", 0x64#8),
    ("FIR.GENBP", 0x65#8), ("FIR.INVERT", 0x66#8), ("FIR.REVERSE", 0x67#8), ("IIR.CFG", 0x70#8),
    ("IIR.RUN", 0x71#8), ("IIR.CLR", 0x72#8), ("GZ.CFG", 0x80#8), ("GZ.RUN", 0x81#8), ("NCO.CFG", 0x90#8),
    ("NCO.FREQ", 0x91#8), ("NCO.MIX", 0x92#8)]

/-- Looks a name up in a table of names. -/
def lookupName {α : Type} (name : List Char) (table : List (String × α)) : Option α :=
  (table.find? fun r => r.1.toList == name).map Prod.snd

/-- `field=value` (R147). -/
def parseField (token : List Char) : Option Field :=
  match splitOn (fun c => c == '=') token with
  | [name, value] =>
    match lookupName name fieldNames with
    | some .k0 => (parseF64 value).map fun x => (.k0, .float x)
    | some .k1 => (parseF64 value).map fun x => (.k1, .float x)
    | some .k2 => (parseF64 value).map fun x => (.k2, .float x)
    | some f => (parseInt value).map fun x => (f, .int x)
    | none => none
  | _ => none

/-- The fields of a command line, none named twice. -/
def parseFields (ts : List (List Char)) : Option (List Field) :=
  match ts.mapM parseField with
  | some fs => if (fs.map Prod.fst).Nodup then some fs else none
  | none => none

/-! ## Source lines as items -/

/-- What assembly places, in order. -/
inductive Item where
  | label (name : List Char)
  | command (opc : BitVec 8) (fields : List Field)
  | org (addr : IntArg)
  | align (n : IntArg)
  | u32 (vs : List IntArg)
  | f64 (xs : List F64)
  | zero (n : IntArg)
deriving DecidableEq, Repr

/-- The labels of the open REPEATs, innermost first, and how many there have been. -/
structure Repeats where
  openLabels : List (List Char)
  count : Nat
deriving DecidableEq, Repr

/-- The label of the `k`-th REPEAT, which no source line can write. -/
def repeatLabel (k : Nat) : List Char := '#' :: List.replicate k '#'

/-- The directives of R147. That their names are lower-case, that `.f64` and `.cpx` take the forms of a `k` value, that a
`.cpx` of an odd count is rejected, and that a list may be empty, is the model's (DESIGN CHOICE, log 20). -/
def parseDirective (name : String) (args : List (List Char)) : Option (List Item) :=
  match name with
  | ".org" => match args with | [x] => (parseInt x).map fun v => [.org v] | _ => none
  | ".align" => match args with | [x] => (parseInt x).map fun v => [.align v] | _ => none
  | ".zero" => match args with | [x] => (parseInt x).map fun v => [.zero v] | _ => none
  | ".u32" => (args.mapM parseInt).map fun vs => [.u32 vs]
  | ".f64" => (args.mapM parseF64).map fun xs => [.f64 xs]
  | ".cpx" => if args.length % 2 = 0 then (args.mapM parseF64).map fun xs => [.f64 xs] else none
  | _ => none

/-- The pseudo-instructions of R148, else a command of R144. R148 lists the fields of each; fields beyond those go into its
expansion as they stand, but VNEG rejects a `k0` and ENDREPEAT any field (DESIGN CHOICE, log 20). -/
def parseOperation (name : String) (args : List (List Char)) (r : Repeats) : Option (List Item × Repeats) :=
  match parseFields args with
  | none => none
  | some fs =>
    match name with
    | "VNEG" =>
      if fs.any fun f => f.1 == .k0 then none
      else some ([.command 0x14#8 ((.k0, .float (fneg fOne)) :: fs)], r)
    | "VMOV" => some ([.command 0x1B#8 fs], r)
    | "STOP" => some ([.command 0x01#8 fs], r)
    | "REPEAT" =>
      some ([.command 0x03#8 fs, .label (repeatLabel r.count)], ⟨repeatLabel r.count :: r.openLabels, r.count + 1⟩)
    | "ENDREPEAT" =>
      match r.openLabels, fs with
      | l :: ls, [] => some ([.command 0x04#8 [(.a, .int (.label l))]], ⟨ls, r.count⟩)
      | _, _ => none
    | _ => (lookupName name.toList mnemonics).map fun opc => ([.command opc fs], r)

/-- A line after its label: nothing, a directive or a command. Mnemonics are case-insensitive (R147). -/
def parseBody (body : List Char) (r : Repeats) : Option (List Item × Repeats) :=
  match tokens body with
  | [] => some ([], r)
  | ('.' :: name) :: args => (parseDirective (String.ofList ('.' :: name)) args).map fun is => (is, r)
  | name :: args => parseOperation (String.ofList (name.map Char.toUpper)) args r

/-- One line: an optional `name:`, then the rest (R147). Separators may stand before the name and before its colon (DESIGN
CHOICE, log 20). -/
def parseLine (line : List Char) (r : Repeats) : Option (List Item × Repeats) :=
  match splitOn (fun c => c == ':') (stripComment line) with
  | [body] => parseBody body r
  | [name, body] =>
    match tokens name with
    | [t] => if isName t then (parseBody body r).map fun o => (.label t :: o.1, o.2) else none
    | _ => none
  | _ => none

/-- The lines in order. Every REPEAT is closed. -/
def parseLines : List (List Char) → Repeats → Option (List Item)
  | [], r => if r.openLabels.isEmpty then some [] else none
  | line :: lines, r =>
    match parseLine line r with
    | some (is, r') => (parseLines lines r').map fun rest => is ++ rest
    | none => none

/-! ## Addresses -/

/-- The labels and their addresses. -/
abbrev Labels := List (List Char × Nat)

def IntArg.eval (env : Labels) : IntArg → Option Nat
  | .value n => some n
  | .label name => (env.find? fun e => e.1 == name).map Prod.snd

/-- The next multiple of `n` from `a` up. -/
def alignUp (n a : Nat) : Nat := (a + n - 1) / n * n

/-- The state of the first pass: the address, the labels still waiting for a descriptor or datum, the labels placed. -/
structure Layout where
  addr : Nat
  waiting : List (List Char)
  env : Labels
deriving DecidableEq, Repr

/-- The waiting labels name `addr`, and `size` bytes follow it. -/
def Layout.place (l : Layout) (addr size : Nat) : Layout :=
  ⟨addr + size, [], l.waiting.map (fun name => (name, addr)) ++ l.env⟩

/-- The address of one item (R147): a command stands at a multiple of 64. A name placed twice is rejected. The operand
of `.org`, `.align` and `.zero` may be a label already placed; R147 does not say whether it may be one defined later,
and such a text is rejected (DESIGN CHOICE, log 20). -/
def layoutItem (l : Layout) : Item → Option Layout
  | .label name =>
    if l.waiting.contains name || l.env.any fun e => e.1 == name then none
    else some { l with waiting := name :: l.waiting }
  | .command _ _ => some (l.place (alignUp 64 l.addr) 64)
  | .org x => (x.eval l.env).map fun a => { l with addr := a }
  | .align x =>
    match x.eval l.env with
    | some n => if n = 0 then none else some { l with addr := alignUp n l.addr }
    | none => none
  | .u32 vs => some (l.place l.addr (4 * vs.length))
  | .f64 xs => some (l.place l.addr (8 * xs.length))
  | .zero x => (x.eval l.env).map fun n => l.place l.addr n

/-- The first pass. Labels with no descriptor or datum after them name the address at the end of the text (DESIGN CHOICE,
log 20). -/
def layoutItems : List Item → Layout → Option Labels
  | [], l => some (l.place l.addr 0).env
  | i :: is, l =>
    match layoutItem l i with
    | some l' => layoutItems is l'
    | none => none

/-! ## Bytes -/

/-- A value that must fit `w` bits: R147 rejects a command line's field that does not fit its width. -/
def fitField (w : Nat) (env : Labels) (x : IntArg) : Option (BitVec w) :=
  match x.eval env with
  | some n => if n < 2 ^ w then some (BitVec.ofNat w n) else none
  | none => none

/-- `UNIT` and `MODE` of W[0] while a descriptor is put together, with the rest of it. -/
structure DraftDesc where
  unit : Nib
  mode : Nib
  rest : Desc
deriving DecidableEq, Repr

/-- One field put into its place (R141). -/
def setField (env : Labels) (c : DraftDesc) (f : Field) : Option DraftDesc :=
  match f with
  | (.u, .int x) => (fitField 4 env x).map fun v => { c with unit := v }
  | (.mode, .int x) => (fitField 4 env x).map fun v => { c with mode := v }
  | (.a, .int x) => (fitField 32 env x).map fun v => { c with rest := { c.rest with a := v } }
  | (.b, .int x) => (fitField 32 env x).map fun v => { c with rest := { c.rest with b := v } }
  | (.d, .int x) => (fitField 32 env x).map fun v => { c with rest := { c.rest with d := v } }
  | (.n, .int x) => (fitField 32 env x).map fun v => { c with rest := { c.rest with n := v } }
  | (.m, .int x) => (fitField 32 env x).map fun v => { c with rest := { c.rest with m := v } }
  | (.p, .int x) => (fitField 32 env x).map fun v => { c with rest := { c.rest with p := v } }
  | (.k0, .float v) => some { c with rest := { c.rest with k0 := v } }
  | (.k1, .float v) => some { c with rest := { c.rest with k1 := v } }
  | (.k2, .float v) => some { c with rest := { c.rest with k2 := v } }
  | _ => none

/-- The descriptor of a command line; an omitted field is 0 (R147). -/
def assembleCommand (env : Labels) (opc : BitVec 8) (fields : List Field) : Option Desc :=
  (fields.foldlM (setField env) ⟨0#4, 0#4, zeroDesc⟩).map fun c => { c.rest with w0 := encodeW0 opc c.unit c.mode }

/-- A block of bytes at an address. -/
abbrev Block := Nat × List Byte

/-- What an item at address `addr` places, and the address after it. R147 says that `.align` pads with zero bytes and does
not say what the bytes hold that are skipped where a command moves up to a multiple of 64: nothing is placed there, and
DMEM keeps what it held (DESIGN CHOICE, log 20). Nor does R147 say what becomes of a `.u32` value of 2^32 or more: the
text is rejected (DESIGN CHOICE, log 20). A datum stands at the address reached, with no alignment of its own (log 20). -/
def emitItem (env : Labels) (addr : Nat) : Item → Option (List Block × Nat)
  | .label _ => some ([], addr)
  | .command opc fields =>
    (assembleCommand env opc fields).map fun d => ([(alignUp 64 addr, d.bytes)], alignUp 64 addr + 64)
  | .org x => (x.eval env).map fun a => ([], a)
  | .align x =>
    (x.eval env).map fun n => ([(addr, List.replicate (alignUp n addr - addr) 0#8)], alignUp n addr)
  | .u32 vs =>
    (vs.mapM (fitField 32 env)).map fun ws => ([(addr, ws.flatMap wordBytes)], addr + 4 * ws.length)
  | .f64 xs => some ([(addr, xs.flatMap fun x => bytesLE 8 x.toNat)], addr + 8 * xs.length)
  | .zero x => (x.eval env).map fun n => ([(addr, List.replicate n 0#8)], addr + n)

/-- The second pass. -/
def emitItems (env : Labels) : Nat → List Item → Option (List Block)
  | _, [] => some []
  | addr, i :: is =>
    match emitItem env addr i with
    | some (bs, addr') => (emitItems env addr' is).map fun rest => bs ++ rest
    | none => none

/-- Items to bytes: the addresses first, then what stands at them. -/
def assembleItems (items : List Item) : Option (List Block) :=
  match layoutItems items ⟨0, [], []⟩ with
  | some env => emitItems env 0 items
  | none => none

/-- The assembler of R147: the blocks of bytes a source text places, in order, from address 0. One rejected line rejects
the text; an address past the end of DMEM does not (DESIGN CHOICE, log 20). -/
def assemble (text : List Char) : Option (List Block) :=
  match parseLines (splitOn (fun c => c == '\n') text) ⟨[], 0⟩ with
  | some items => assembleItems items
  | none => none

/-- The DMEM that holds an assembled text, over the contents `m`: where blocks overlap, the later one stands (DESIGN
CHOICE, log 20). -/
def loadBlocks (m : Memory) (blocks : List Block) : Memory :=
  blocks.foldl (fun m b => writeBytes m b.1 b.2) m

end Sys2Proof.Machine
end

