-- ==== Sys2Proof/Safety.lean ====
section
/-! DEFINITION. The terms the claims are stated in: legal regions, what a command or a step leaves unchanged, taking a
fault, which instances a command names, the ends of a run, and the invariants of the machine. -/

namespace Sys2Proof.Machine

/-! ## Regions (R104) -/

/-- `count` elements of `esize` bytes at `addr` are a legal region: "`addr mod align = 0` and either `count = 0` or
`addr + count*esize <= DMEM_BYTES`" (R104). -/
def LegalRegion (addr : Word) (count esize align : Nat) : Prop :=
  addr.toNat % align = 0 ∧ (count = 0 ∨ addr.toNat + count * esize ≤ Config.dmemBytes)

/-- A legal array of `n` CPX elements (R103). -/
def LegalCpxs (a : Word) (n : Nat) : Prop := LegalRegion a n 16 16

/-- A legal array of `n` binary64 elements (R103). -/
def LegalReals (a : Word) (n : Nat) : Prop := LegalRegion a n 8 8

/-! ## What a state transition leaves unchanged -/

/-- Every byte of DMEM reads as before but the `len` bytes from `lo` up. -/
def KeptOutside (s t : State) (lo len : Nat) : Prop :=
  ∀ x, x < lo ∨ lo + len ≤ x → readByte t.dmem x = readByte s.dmem x

/-- Every byte of DMEM reads as before. -/
def KeptDmem (s t : State) : Prop := ∀ x, readByte t.dmem x = readByte s.dmem x

/-- The registers and latches no completing command but HALT, SIGNAL, LSET and LOOP writes; `CP`, `RETIRED` and
`LAST_COUNT` are not among them. -/
structure SameControl (s t : State) : Prop where
  status : t.status = s.status
  lc : t.lc = s.lc
  cause : t.cause = s.cause
  faultCp : t.faultCp = s.faultCp
  faultInfo : t.faultInfo = s.faultInfo
  irqEn : t.irqEn = s.irqEn
  irqPend : t.irqPend = s.irqPend
  abortReq : t.abortReq = s.abortReq
  sresetReq : t.sresetReq = s.sresetReq
  inputs : t.inputs = s.inputs
  response : t.response = s.response

/-- The completion of a command that is no control command (R202): `CP` past the descriptor, one more command
retired, every other register but `LAST_COUNT` as before. -/
structure Completed (s t : State) : Prop where
  cp : t.cp = s.cp + 64#32
  retired : t.retired = s.retired + 1#64
  control : SameControl s t

/-- Every unit state bank as before. -/
structure SameUnits (s t : State) : Prop where
  dl : t.dl = s.dl
  hb : t.hb = s.hb
  ch : t.ch = s.ch
  fir : t.fir = s.fir
  iir : t.iir = s.iir
  gz : t.gz = s.gz
  nco : t.nco = s.nco

/-- Of the unit banks only delay line `i` may differ. -/
structure OnlyDl (i : Nat) (s t : State) : Prop where
  others : ∀ j, j ≠ i → t.dlAt j = s.dlAt j
  hb : t.hb = s.hb
  ch : t.ch = s.ch
  fir : t.fir = s.fir
  iir : t.iir = s.iir
  gz : t.gz = s.gz
  nco : t.nco = s.nco

/-- Of the unit banks only halfband stage `i` may differ. -/
structure OnlyHb (i : Nat) (s t : State) : Prop where
  others : ∀ j, j ≠ i → t.hbAt j = s.hbAt j
  dl : t.dl = s.dl
  ch : t.ch = s.ch
  fir : t.fir = s.fir
  iir : t.iir = s.iir
  gz : t.gz = s.gz
  nco : t.nco = s.nco

/-- Of the unit banks only chain `i` may differ. -/
structure OnlyCh (i : Nat) (s t : State) : Prop where
  others : ∀ j, j ≠ i → t.chAt j = s.chAt j
  dl : t.dl = s.dl
  hb : t.hb = s.hb
  fir : t.fir = s.fir
  iir : t.iir = s.iir
  gz : t.gz = s.gz
  nco : t.nco = s.nco

/-- Of the unit banks only FIR engine `i` may differ. -/
structure OnlyFir (i : Nat) (s t : State) : Prop where
  others : ∀ j, j ≠ i → t.firAt j = s.firAt j
  dl : t.dl = s.dl
  hb : t.hb = s.hb
  ch : t.ch = s.ch
  iir : t.iir = s.iir
  gz : t.gz = s.gz
  nco : t.nco = s.nco

/-- Of the unit banks only IIR engine `i` may differ. -/
structure OnlyIir (i : Nat) (s t : State) : Prop where
  others : ∀ j, j ≠ i → t.iirAt j = s.iirAt j
  dl : t.dl = s.dl
  hb : t.hb = s.hb
  ch : t.ch = s.ch
  fir : t.fir = s.fir
  gz : t.gz = s.gz
  nco : t.nco = s.nco

/-- Of the unit banks only detector `i` may differ. -/
structure OnlyGz (i : Nat) (s t : State) : Prop where
  others : ∀ j, j ≠ i → t.gzAt j = s.gzAt j
  dl : t.dl = s.dl
  hb : t.hb = s.hb
  ch : t.ch = s.ch
  fir : t.fir = s.fir
  iir : t.iir = s.iir
  nco : t.nco = s.nco

/-- Of the unit banks only mixer `i` may differ. -/
structure OnlyNco (i : Nat) (s t : State) : Prop where
  others : ∀ j, j ≠ i → t.ncoAt j = s.ncoAt j
  dl : t.dl = s.dl
  hb : t.hb = s.hb
  ch : t.ch = s.ch
  fir : t.fir = s.fir
  iir : t.iir = s.iir
  gz : t.gz = s.gz

/-! ## Taking a fault (R460) -/

/-- `t` is `s` after fault entry with cause `c` and info `v`, field by field (R460). -/
structure FaultEntered (c : Cause) (v : Word) (s t : State) : Prop where
  cause : t.cause = c
  faultCp : t.faultCp = s.cp
  cp : t.cp = s.cp
  faultInfo : t.faultInfo = v
  status : t.status = ⟨false, true, s.status.done, s.status.aborted⟩
  irqPend : t.irqPend = ⟨s.irqPend.done, true, s.irqPend.signal, s.irqPend.abort⟩
  abortReq : t.abortReq = false
  sresetReq : t.sresetReq = s.sresetReq
  retired : t.retired = s.retired
  lastCount : t.lastCount = s.lastCount
  lc : t.lc = s.lc
  irqEn : t.irqEn = s.irqEn
  units : SameUnits s t
  dmem : t.dmem = s.dmem
  inputs : t.inputs = s.inputs
  response : t.response = s.response

/-- A command or step ends in fault entry with this cause and info. -/
def Faults (o : Result) (c : Cause) (v : Word) (s : State) : Prop := ∃ t, o = .next t ∧ FaultEntered c v s t

/-! ## Which instances a command names (R144, R451) -/

/-- The `UNIT` field of a command that has one, with the count of its kind (R451). -/
def unitOperand : Instr → Option (Nib × Nat)
  | .dlCfg u _ _ | .dlPush u _ _ | .dlTap u _ _ | .dlMac u _ _ _ => some (u, Config.dlUnits)
  | .hbCfg u _ _ _ _ _ _ | .hbRun u _ _ _ => some (u, Config.hbUnits)
  | .chBuild u _ _ _ _ | .chProc u _ _ _ | .chInfo u _ => some (u, Config.chainUnits)
  | .firCfg u _ _ _ _ | .firRun u _ _ _ => some (u, Config.firUnits)
  | .iirCfg u _ _ _ | .iirRun u _ _ _ | .iirClr u => some (u, Config.iirUnits)
  | .gzCfg u _ _ _ _ _ _ _ | .gzRun u _ _ _ => some (u, Config.gzUnits)
  | .ncoCfg u _ _ _ | .ncoFreq u _ | .ncoMix u _ _ _ => some (u, Config.ncoUnits)
  | _ => none

/-- The commands that need a configured instance, with its `cfg` bit and the info value of UNCONFIGURED (R451). -/
def configOperand (s : State) : Instr → Option (Bool × Nat)
  | .dlPush u _ _ | .dlTap u _ _ | .dlMac u _ _ _ => some ((s.dlAt u.toNat).cfg, 2 * 256 + u.toNat)
  | .hbRun u _ _ _ => some ((s.hbAt u.toNat).cfg, 1 * 256 + u.toNat)
  | .firRun u _ _ _ => some ((s.firAt u.toNat).cfg, 3 * 256 + u.toNat)
  | .iirRun u _ _ _ | .iirClr u => some ((s.iirAt u.toNat).cfg, 4 * 256 + u.toNat)
  | .gzRun u _ _ _ => some ((s.gzAt u.toNat).cfg, 5 * 256 + u.toNat)
  | .ncoFreq u _ | .ncoMix u _ _ _ => some ((s.ncoAt u.toNat).cfg, 6 * 256 + u.toNat)
  | _ => none

/-- The other instance a command needs: the delay line of a time-domain engine (R351, R456). -/
def lineReady (s : State) : Instr → Prop
  | .firRun u _ _ _ =>
    (s.firAt u.toNat).mode = .td → (s.dlAt (s.firAt u.toNat).dl).cfg = true
  | _ => True

/-- An odd tap count from `lo` to `hi`. -/
def oddIn (lo hi : Nat) (n : Word) : Bool := n.toNat % 2 == 1 && lo ≤ n.toNat && n.toNat ≤ hi

/-- The table R455: the fields each command checks, in the order it checks them, each with its word index and whether
it is in range. -/
def fieldRanges (s : State) : Instr → List (Nat × Bool)
  | .vdecim _ _ _ m => [(5, m != 0)]
  | .dlCfg _ n m => [(4, 1 ≤ n.toNat && n.toNat ≤ Config.dlMaxSize), (5, m.toNat < n.toNat)]
  | .hbCfg _ mode _ n m p _ =>
    [(0, mode.toNat ≤ 2), (4, mode != 1 || oddIn 3 Config.hbMaxTaps n), (5, mode != 0 || m.toNat < 14),
      (6, p == 2 || p == 4)]
  | .chBuild _ _ n _ _ => [(4, n != 0)]
  | .chProc _ _ _ n => [(4, n.toNat ≤ Config.chMaxIn)]
  | .firGenlp mode _ n k0 | .firGenhp mode _ n k0 =>
    [(0, mode.toNat ≤ 2), (4, oddIn 1 Config.firMaxTaps n), (8, flt fZero k0 && flt k0 fHalf)]
  | .firGenbs mode _ n k0 k1 | .firGenbp mode _ n k0 k1 =>
    [(0, mode.toNat ≤ 2), (4, oddIn 1 Config.firMaxTaps n), (8, flt fZero k0 && flt k0 fHalf),
      (10, flt k0 k1 && flt k1 fHalf)]
  | .firInvert _ _ n => [(4, oddIn 1 Config.firMaxTaps n)]
  | .firReverse _ _ n => [(4, 1 ≤ n.toNat && n.toNat ≤ Config.firMaxTaps)]
  | .firCfg _ mode _ n m =>
    [(0, mode.toNat ≤ 1), (4, 1 ≤ n.toNat && n.toNat ≤ Config.firMaxTaps),
      (5, if mode = 0 then m.toNat < Config.dlUnits
          else 1 ≤ m.toNat && m.toNat ≤ Config.firMaxBlock && n.toNat ≤ m.toNat + 1)]
  | .firRun u _ _ n => [(4, (s.firAt u.toNat).mode == .td || n.toNat == (s.firAt u.toNat).blk)]
  | .iirCfg _ mode _ n =>
    [(0, mode.toNat ≤ 1),
      (4, 1 ≤ n.toNat && n.toNat ≤ if mode = 0 then Config.iirMaxOrder else Config.iirMaxSections)]
  | .gzCfg _ mode n _ p k0 k1 k2 =>
    [(0, mode.toNat ≤ 2), (4, n != 0), (6, p.toNat ≤ 2), (8, isFinite k0), (10, isFinite k1 && flt fZero k1),
      (12, if mode = 1 then isFinite k2 && fle fZero k2
           else if mode = 2 then fle fZero k2 && fle k2 fOne else true)]
  | .ncoCfg _ k0 k1 k2 =>
    [(10, isFinite k1 && flt fZero k1), (8, isFinite k0 && flt (fneg k1) k0 && flt k0 k1),
      (12, fle fZero k2 && flt k2 Config.twoPi)]
  | .ncoFreq u k0 =>
    [(8, isFinite k0 && flt (fneg (s.ncoAt u.toNat).fs) k0 && flt k0 (s.ncoAt u.toNat).fs)]
  | _ => []

/-- The word index of the first field out of its range (R455, R456). -/
def badFieldOf (s : State) (i : Instr) : Option Nat := ((fieldRanges s i).find? fun c => !c.2).map Prod.fst

/-- The commands that report a count (R58). -/
def reportsCount : Instr → Bool
  | .vdecim _ _ _ _ | .hbRun _ _ _ _ | .chBuild _ _ _ _ _ | .chProc _ _ _ _ | .chInfo _ _ | .gzRun _ _ _ _ => true
  | _ => false

/-- The commands that write the loop counter (R45). -/
def writesLoopCounter : Instr → Bool
  | .lset _ | .loop _ => true
  | _ => false

/-- The command may change the state of delay line `j`: DL.CFG and DL.PUSH on it, and FIR.RUN on a time-domain engine
that uses it (R263, R264, R351). -/
def mayChangeDl (s : State) (i : Instr) (j : Nat) : Prop :=
  match i with
  | .dlCfg u _ _ | .dlPush u _ _ => u.toNat = j
  | .firRun u _ _ _ => (s.firAt u.toNat).mode = .td ∧ (s.firAt u.toNat).dl = j
  | _ => False

/-- The command may change halfband stage `j` (R290, R291). -/
def mayChangeHb (i : Instr) (j : Nat) : Prop :=
  match i with
  | .hbCfg u _ _ _ _ _ _ | .hbRun u _ _ _ => u.toNat = j
  | _ => False

/-- The command may change chain `j`: CH.INFO does not (R313, R316, R318). -/
def mayChangeCh (i : Instr) (j : Nat) : Prop :=
  match i with
  | .chBuild u _ _ _ _ | .chProc u _ _ _ => u.toNat = j
  | _ => False

/-- The command may change FIR engine `j`: FIR.RUN only in the frequency domain (R350, R351). -/
def mayChangeFir (s : State) (i : Instr) (j : Nat) : Prop :=
  match i with
  | .firCfg u _ _ _ _ => u.toNat = j
  | .firRun u _ _ _ => u.toNat = j ∧ (s.firAt u.toNat).mode = .fd
  | _ => False

/-- The command may change IIR engine `j` (R372, R375, R376). -/
def mayChangeIir (i : Instr) (j : Nat) : Prop :=
  match i with
  | .iirCfg u _ _ _ | .iirRun u _ _ _ | .iirClr u => u.toNat = j
  | _ => False

/-- The command may change detector `j` (R395, R396). -/
def mayChangeGz (i : Instr) (j : Nat) : Prop :=
  match i with
  | .gzCfg u _ _ _ _ _ _ _ | .gzRun u _ _ _ => u.toNat = j
  | _ => False

/-- The command may change mixer `j` (R422, R423, R424). -/
def mayChangeNco (i : Instr) (j : Nat) : Prop :=
  match i with
  | .ncoCfg u _ _ _ | .ncoFreq u _ | .ncoMix u _ _ _ => u.toNat = j
  | _ => False

/-! ## The regions of a command (R103, R144) -/

/-- The regions a command names, in the order A, B, D (R144), with the counts of their elements: those of VDECIM, HB.RUN,
CH.PROC, CH.INFO and GZ.RUN come from the operands or from unit state (R456). -/
def operandRegions (s : State) : Instr → List Region
  | .vadd a b d n | .vsub a b d n | .vmul a b d n | .vdiv a b d n =>
    [⟨a, n.toNat, 16, 16⟩, ⟨b, n.toNat, 16, 16⟩, ⟨d, n.toNat, 16, 16⟩]
  | .vscale a d n _ | .vconj a d n | .vpolar a d n | .vrect a d n | .vcopy a d n | .firRun _ a d n | .iirRun _ a d n
  | .ncoMix _ a d n => [⟨a, n.toNat, 16, 16⟩, ⟨d, n.toNat, 16, 16⟩]
  | .vmag a d n | .vsqmag a d n => [⟨a, n.toNat, 16, 16⟩, ⟨d, n.toNat, 8, 8⟩]
  | .vclear d n => [⟨d, n.toNat, 16, 16⟩]
  | .vdecim a d n m => [⟨a, n.toNat, 16, 16⟩, ⟨d, n.toNat / m.toNat, 16, 16⟩]
  | .vnormsqr a d n | .vnorm a d n | .vpeak a d n | .vpeakpwr a d n => [⟨a, n.toNat, 16, 16⟩, ⟨d, 1, 8, 8⟩]
  | .dlPush _ a n => [⟨a, n.toNat, 16, 16⟩]
  | .dlTap _ d _ => [⟨d, 1, 16, 16⟩]
  | .dlMac _ a d n => [⟨a, n.toNat, 8, 8⟩, ⟨d, 1, 16, 16⟩]
  | .hbCfg _ mode a n _ _ _ => if mode = 1 then [⟨a, n.toNat, 8, 8⟩] else []
  | .hbRun u a d n => [⟨a, n.toNat, 16, 16⟩, ⟨d, (s.hbAt u.toNat).count n.toNat, 16, 16⟩]
  | .chBuild _ d _ _ _ => [⟨d, 1, 16, 8⟩]
  | .chProc u a d n => [⟨a, n.toNat, 16, 16⟩, ⟨d, chainCount (s.chAt u.toNat).stages n.toNat, 16, 16⟩]
  | .chInfo u d => [⟨d, (s.chAt u.toNat).nstages, 16, 8⟩]
  | .firCfg _ _ a n _ => [⟨a, n.toNat, 8, 8⟩]
  | .firGenlp _ d n _ | .firGenhp _ d n _ | .firGenbs _ d n _ _ | .firGenbp _ d n _ _ => [⟨d, n.toNat, 8, 8⟩]
  | .firInvert a d n | .firReverse a d n => [⟨a, n.toNat, 8, 8⟩, ⟨d, n.toNat, 8, 8⟩]
  | .iirCfg _ mode a n => [⟨a, if mode = 0 then 2 * n.toNat + 1 else 5 * n.toNat, 8, 8⟩]
  | .gzRun u a d n =>
    [⟨a, n.toNat, 16, 16⟩, ⟨d, ((s.gzAt u.toNat).cnt + n.toNat) / (s.gzAt u.toNat).nbin, 32, 8⟩]
  | _ => []

/-- The address of the first misaligned region (R104, R456). -/
def misalignedOf (s : State) (i : Instr) : Option Word :=
  ((operandRegions s i).find? fun r => r.addr.toNat % r.align != 0).map Region.addr

/-- The address of the first region with elements that reaches past the end of DMEM (R104, R456). -/
def outsideOf (s : State) (i : Instr) : Option Word :=
  ((operandRegions s i).find? fun r =>
    r.count != 0 && Config.dmemBytes < r.addr.toNat + r.count * r.esize).map Region.addr

/-! ## The fields of a descriptor (R141, R144) -/

/-- The fields of R141 that a command may use. -/
inductive DescField where
  | unit
  | mode
  | a
  | b
  | d
  | n
  | m
  | p
  | k0
  | k1
  | k2
deriving DecidableEq, Repr

/-- The word that reports a field, of a `K` field its low word (R141, R143). -/
def DescField.word : DescField → Nat
  | .unit => 0
  | .mode => 0
  | .a => 1
  | .b => 2
  | .d => 3
  | .n => 4
  | .m => 5
  | .p => 6
  | .k0 => 8
  | .k1 => 10
  | .k2 => 12

/-- A field's bits as a number. -/
def fieldValue (x : Desc) : DescField → Nat
  | .unit => x.unit.toNat
  | .mode => x.mode.toNat
  | .a => x.a.toNat
  | .b => x.b.toNat
  | .d => x.d.toNat
  | .n => x.n.toNat
  | .m => x.m.toNat
  | .p => x.p.toNat
  | .k0 => x.k0.toNat
  | .k1 => x.k1.toNat
  | .k2 => x.k2.toNat

/-- The fields a command uses, row by row of R144; those of HB.CFG and GZ.CFG that R144 marks with a mode count in that
mode only (an out-of-range MODE is log 17). -/
def usedFields : Instr → List DescField
  | .nop | .halt | .signal => []
  | .jump _ | .loop _ => [.a]
  | .lset _ => [.n]
  | .vadd _ _ _ _ | .vsub _ _ _ _ | .vmul _ _ _ _ | .vdiv _ _ _ _ => [.a, .b, .d, .n]
  | .vscale _ _ _ _ => [.a, .d, .n, .k0]
  | .vconj _ _ _ | .vmag _ _ _ | .vsqmag _ _ _ | .vpolar _ _ _ | .vrect _ _ _ | .vcopy _ _ _ | .vnormsqr _ _ _
  | .vnorm _ _ _ | .vpeak _ _ _ | .vpeakpwr _ _ _ | .firInvert _ _ _ | .firReverse _ _ _ => [.a, .d, .n]
  | .vclear _ _ => [.d, .n]
  | .vdecim _ _ _ _ => [.a, .d, .n, .m]
  | .dlCfg _ _ _ => [.unit, .n, .m]
  | .dlPush _ _ _ => [.unit, .a, .n]
  | .dlTap _ _ _ => [.unit, .d, .m]
  | .dlMac _ _ _ _ | .hbRun _ _ _ _ | .chProc _ _ _ _ | .firRun _ _ _ _ | .iirRun _ _ _ _ | .gzRun _ _ _ _
  | .ncoMix _ _ _ _ => [.unit, .a, .d, .n]
  | .hbCfg _ mode _ _ _ _ _ =>
    [.unit, .mode, .p] ++
      if mode = 0 then [.m] else if mode = 1 then [.a, .n, .k0] else if mode = 2 then [.k0] else []
  | .chBuild _ _ _ _ _ => [.unit, .d, .n, .m, .p]
  | .chInfo _ _ => [.unit, .d]
  | .firCfg _ _ _ _ _ => [.unit, .mode, .a, .n, .m]
  | .firGenlp _ _ _ _ | .firGenhp _ _ _ _ => [.mode, .d, .n, .k0]
  | .firGenbs _ _ _ _ _ | .firGenbp _ _ _ _ _ => [.mode, .d, .n, .k0, .k1]
  | .iirCfg _ _ _ _ => [.unit, .mode, .a, .n]
  | .iirClr _ => [.unit]
  | .gzCfg _ mode _ _ _ _ _ _ =>
    [.unit, .mode, .n, .p, .k0, .k1] ++ if mode = 1 ∨ mode = 2 then [.m, .k2] else []
  | .ncoCfg _ _ _ _ => [.unit, .k0, .k1, .k2]
  | .ncoFreq _ _ => [.unit, .k0]

/-- Word `k` of a descriptor holds a non-zero reserved or unused field, for the command `i` (R143). -/
def NonzeroAt (i : Instr) (x : Desc) (k : Nat) : Prop :=
  (k = 0 ∧ x.reserved0 ≠ 0) ∨ (k = 7 ∧ x.w7 ≠ 0) ∨ (k = 14 ∧ x.w14 ≠ 0) ∨ (k = 15 ∧ x.w15 ≠ 0) ∨
    ∃ f : DescField, f.word = k ∧ f ∉ usedFields i ∧ fieldValue x f ≠ 0

/-- A descriptor with the opcode of `i` and its values in the fields it uses, whatever its other fields hold. -/
def SameCommand (i : Instr) (x : Desc) : Prop :=
  x.opc = (encodeDesc i).opc ∧ ∀ f ∈ usedFields i, fieldValue x f = fieldValue (encodeDesc i) f

/-! ## Rounding (R10, R12) -/

/-- `r` is the finite value nearest `num / den` units of 2^-1074, and of two nearest the one whose last bit is even; a
quotient from half a place above the largest finite value up is an infinity of its sign (R12; the overflow is log 26). -/
def RoundsTo (r : F64) (num : Int) (den : Nat) : Prop :=
  if (2 ^ 1024 - 2 ^ 970) * 2 ^ 1074 * den ≤ num.natAbs then isInf r = true ∧ signBit r = decide (num < 0)
  else
    isFinite r = true ∧
      ∀ z : F64, isFinite z = true →
        (intUnits r * den - num).natAbs ≤ (intUnits z * den - num).natAbs ∧
          ((intUnits r * den - num).natAbs = (intUnits z * den - num).natAbs → intUnits z ≠ intUnits r →
            r.toNat % 2 = 0)

/-! ## Encodings and streams -/

/-- The OPC values R145 lists as illegal. -/
def unlistedOpcode (n : Nat) : Prop :=
  (0x06 ≤ n ∧ n ≤ 0x0F) ∨ (0x1D ≤ n ∧ n ≤ 0x1F) ∨ (0x24 ≤ n ∧ n ≤ 0x2F) ∨ (0x34 ≤ n ∧ n ≤ 0x3F) ∨
    (0x42 ≤ n ∧ n ≤ 0x4F) ∨ (0x53 ≤ n ∧ n ≤ 0x5F) ∨ (0x68 ≤ n ∧ n ≤ 0x6F) ∨ (0x73 ≤ n ∧ n ≤ 0x7F) ∨
      (0x82 ≤ n ∧ n ≤ 0x8F) ∨ (0x93 ≤ n ∧ n ≤ 0xFF)

/-- Program P1 of spec/95_test_vectors.md in the syntax of R147. -/
def workedProgram : String :=
  ".org 0x000\n        LSET n=3\nbody:   VADD a=0x400 b=0x410 d=0x400 n=1     ; acc := acc + inc\n" ++
    "        LOOP a=body\n        HALT\n.org 0x400\nacc:    .cpx 0.0, 0.0\ninc:    .cpx 1.0, 0.5\n"

/-- The calls of a stream given to a chain of stages in order: the stages at the end and the output of each call. -/
def feedCalls (gs : List Stage) : List (List Cpx) → List Stage × List (List Cpx)
  | [] => (gs, [])
  | x :: xs =>
    let r := runStages gs x
    let rest := feedCalls r.1 xs
    (rest.1, r.2 :: rest.2)

/-! ## A step of the sequencer -/

/-- The next step is a sequencer step that fetches: a run is on, no host move comes first and no latch is set. -/
def WillFetch (s : State) : Prop :=
  s.status.busy = true ∧ s.sresetReq = false ∧ s.abortReq = false ∧ s.inputs = []

/-- A descriptor can be fetched at `CP` (R454). -/
def FetchLegal (s : State) : Prop := s.cp.toNat % 64 = 0 ∧ s.cp.toNat + 64 ≤ Config.dmemBytes

/-! ## The ends of a run (R207) -/

/-- A run ended by HALT, by a fault or by an abort (R207). -/
def EndedByHalt (s : State) : Prop := s.status.busy = false ∧ s.status.done = true
def EndedByFault (s : State) : Prop := s.status.busy = false ∧ s.status.fault = true
def EndedByAbort (s : State) : Prop := s.status.busy = false ∧ s.status.aborted = true

/-- The premises R207 asks a claim about a run's results to take: the run is over, with no fault and no abort. -/
def CleanStop (s : State) : Prop :=
  s.status.busy = false ∧ s.status.done = true ∧ s.status.fault = false ∧ s.status.aborted = false

/-! ## Invariants -/

/-- DMEM has the canonical form and lists only DMEM addresses. -/
structure MemoryInv (s : State) : Prop where
  wf : s.dmem.wf = true
  inDmem : s.dmem.inDmem = true

/-- The run's flags and latches agree (R51, R73, R482, R483): a run on excludes FAULT, DONE and ABORTED, a latch is set
only while a run is on, and FAULT has a cause. -/
structure RunInv (s : State) : Prop where
  running : s.status.busy = true →
    s.status.fault = false ∧ s.status.done = false ∧ s.status.aborted = false
  latched : s.status.busy = false → s.abortReq = false ∧ s.sresetReq = false
  faulted : s.status.fault = true → s.cause ≠ .none

/-- The ranges of R66, for a configured line; an unconfigured one holds its reset value (R65). -/
def DelayLine.Ok (l : DelayLine) : Prop :=
  if l.cfg then
    1 ≤ l.size ∧ l.size ≤ Config.dlMaxSize ∧ l.delay < l.size ∧ l.last < l.size
  else l = DelayLine.reset

/-- The ranges of R67 and R68: a FIR stage has an odd tap count from 3 up and `T - 1` samples of history in each
pass. -/
def Halfband.Ok (h : Halfband) : Prop :=
  if h.cfg then
    match h.form with
    | .cic3 => h.coeff = []
    | .fir =>
      h.coeff.length % 2 = 1 ∧ 3 ≤ h.coeff.length ∧ h.coeff.length ≤ Config.hbMaxTaps ∧
        h.pass0.hist.length = h.coeff.length - 1 ∧ h.pass1.hist.length = h.coeff.length - 1
  else h = Halfband.reset

/-- A chain has at most MAX_STAGES stages, each with the history of its design (R67, R69). -/
def Chain.Ok (c : Chain) : Prop :=
  c.nstages ≤ Config.maxStages ∧
    ∀ g ∈ c.stages, g.pass0.hist.length = hbTaps g.design - 1 ∧ g.pass1.hist.length = hbTaps g.design - 1

/-- The ranges of R70 and R350. -/
def Fir.Ok (f : Fir) : Prop :=
  if f.cfg then
    1 ≤ f.ntaps ∧ f.ntaps ≤ Config.firMaxTaps ∧ f.xtail.length = f.ntaps - 1 ∧
      match f.mode with
      | .td => f.dl < Config.dlUnits ∧ f.blk = 0
      | .fd => f.dl = 0 ∧ 1 ≤ f.blk ∧ f.blk ≤ Config.firMaxBlock ∧ f.ntaps ≤ f.blk + 1
  else f = Fir.reset

/-- Histories of length `p` (R71). -/
def Hist.HasLength (h : Hist) (p : Nat) : Prop := h.x.length = p ∧ h.y.length = p

/-- The ranges of R71. -/
def Iir.Ok (g : Iir) : Prop :=
  if g.cfg then
    match g.mode with
    | .direct =>
      1 ≤ g.order ∧ g.order ≤ Config.iirMaxOrder ∧ g.b.length = g.order + 1 ∧ g.re.HasLength g.order ∧
        g.im.HasLength g.order ∧ g.sections = []
    | .cascade =>
      1 ≤ g.nsec ∧ g.nsec ≤ Config.iirMaxSections ∧ g.b = [] ∧ g.a = [] ∧ g.re = Hist.zero 0 ∧
        g.im = Hist.zero 0 ∧ ∀ c ∈ g.sections, c.re.HasLength 2 ∧ c.im.HasLength 2
  else g = Iir.reset

/-- The ranges of R72: `cnt` is below `nbin`, and the integer fields are uint32. -/
def Goertzel.Ok (g : Goertzel) : Prop :=
  if g.cfg then
    g.cnt < g.nbin ∧ g.nbin < 2 ^ 32 ∧ g.lim < 2 ^ 32 ∧ g.dcnt < 2 ^ 32 ∧ g.quiet < 2 ^ 32
  else g = Goertzel.reset

/-- A configured mixer has a finite positive sample rate (R72, R422). R72's range of the phase is left out: it holds only
while the increment is at most `TWO_PI` in magnitude (R421), which the field checks of R422 do not ensure where
`TWO_PI * f` overflows. -/
def Nco.Ok (o : Nco) : Prop :=
  if o.cfg then isFinite o.fs = true ∧ flt fZero o.fs = true else o = Nco.reset

/-- Every instance of every bank is in the range its rule gives (R65-R72). -/
structure UnitInv (s : State) : Prop where
  dl : ∀ i, (s.dlAt i).Ok
  hb : ∀ i, (s.hbAt i).Ok
  ch : ∀ i, (s.chAt i).Ok
  fir : ∀ i, (s.firAt i).Ok
  iir : ∀ i, (s.iirAt i).Ok
  gz : ∀ i, (s.gzAt i).Ok
  nco : ∀ i, (s.ncoAt i).Ok

/-- The machine's invariant. -/
structure Inv (s : State) : Prop where
  memory : MemoryInv s
  run : RunInv s
  units : UnitInv s

end Sys2Proof.Machine
end

