-- ==== Sys2Proof/Certificates/Slice0/Obligations.lean ====
section
/-! DEFINITION. The statements for the provers: the rules of the spec about what each command and the machine do. -/

open Sys2Proof Sys2Proof.Machine

/-! ## Encoding -/

/-- R140-R144, R149: the decoder reads back every command from its descriptor, and from the descriptor's 64 bytes, with
every operand at every value the encoding admits. -/
def Obligations.DecodeReadsEveryEncoding : Prop :=
  ∀ i : Instr, wellFormed i = true →
    decode (encodeDesc i) = .command i ∧
      decode (Desc.ofBytes fun k => ((encodeBytes i)[k]?).getD 0#8) = .command i

/-- R143, R149: a descriptor that decodes to a command is that command's own encoding, so no bit is ignored. -/
def Obligations.DecodedDescriptorIsTheEncoding : Prop :=
  ∀ (d : Desc) (i : Instr), decode d = .command i → wellFormed i = true ∧ encodeDesc i = d

/-- R141, R144: words written out from the spec's worked programs decode to their commands. -/
def Obligations.WrittenWordsDecode : Prop :=
  decodeTableWord 32 0x00000001 = some .halt ∧
    decodeTableWord 160 0x0000000300000000000000000000000000000003 = some (.lset 3) ∧
    decodeTableWord 160 0x0000000100000400000004100000040000000010 = some (.vadd 0x400 0x410 0x400 1) ∧
    decodeTableWord 192 0x00000001001F400000000400000000000000000000000050 = some (.chBuild 0 0x400 2048000 1 0) ∧
    decodeTableWord 160 0x0000000400000000000000000000000000000130 = some (.dlCfg 1 4 0) ∧
    decodeTableWord 512
        0x00000000000000000000000000000000_40BF4000000000000000000000000000_00000000000000000000000000000004_00000000000000000000000000000080
      = some (.gzCfg 0 0 4 0 0 0 0x40BF400000000000 0) ∧
    decodeTableWord 32 0x00000006 = none ∧ decodeTableWord 32 0x00010000 = none

/-- R145, R149: exactly the listed OPC values are ILLEGAL_OPCODE, with info `W[0]`, whatever else the descriptor holds. -/
def Obligations.UnlistedOpcodesAreIllegal : Prop :=
  ∀ d : Desc,
    ((∃ w, decode d = .illegalOpcode w) ↔ unlistedOpcode d.opc.toNat) ∧
      ∀ w, decode d = .illegalOpcode w → w = d.w0

/-- R141, R143, R144: a descriptor with the opcode and the used fields of a command is that command exactly where every
reserved and unused field is zero; else RESERVED_NONZERO reports the lowest word that holds a non-zero one. (Which fields
a MODE out of range uses is log 17.) -/
def Obligations.ReservedFieldsAreReported : Prop :=
  ∀ (i : Instr) (x : Desc), wellFormed i = true → SameCommand i x →
    (decode x = .command i ↔ ∀ k, ¬ NonzeroAt i x k) ∧
      ∀ k, decode x = .reservedNonzero k ↔ NonzeroAt i x k ∧ ∀ j < k, ¬ NonzeroAt i x j

/-- R147, R148: the spec's first program assembles to the words the spec lists for it, and the pseudo-instructions
VNEG, VMOV and STOP read as the commands they stand for. (That fields R148 does not list pass into the expansion is the
model's choice, log 20.) -/
def Obligations.AssemblerMatchesTheWorkedProgram : Prop :=
  ((assemble workedProgram.toList).map fun bs =>
      ((List.range 64).map fun j => memRead (loadBlocks [] bs) (4 * j) 4,
        (List.range 8).map fun j => memRead (loadBlocks [] bs) (0x400 + 4 * j) 4)) =
    some
      ([0x3, 0, 0, 0, 3] ++ List.replicate 11 0 ++ ([0x10, 0x400, 0x410, 0x400, 1] ++ List.replicate 11 0) ++
          ([0x4, 0x40] ++ List.replicate 14 0) ++ (0x1 :: List.replicate 15 0),
        [0, 0, 0, 0, 0, 0x3FF00000, 0, 0x3FE00000]) ∧
    ∀ (args : List (List Char)) (fs : List Field) (r : Repeats), parseFields args = some fs →
      parseOperation "VMOV" args r = parseOperation "VCOPY" args r ∧
        parseOperation "STOP" args r = parseOperation "HALT" args r ∧
          ((∀ f ∈ fs, f.1 ≠ .k0) →
            parseOperation "VNEG" args r = parseOperation "VSCALE" ("k0=-1.0".toList :: args) r)

/-! ## The sequencer -/

/-- R143, R145, R450, R453, R460, R480: where the bytes at `CP` decode to a command, the next step is that command's
meaning, with the boundary after it; while the run goes on, and when it ends with no latch set, that is the meaning's own
next state. A descriptor that decodes to no command faults there, with nothing else changed. That a host move takes a step
of its own, from a list of slots, and that an empty slot is consumed by the sequencer's step, is the model's choice
(log 14): R480 says only that a move takes effect between two steps. -/
def Obligations.StepRunsDecodedInstruction : Prop :=
  (∀ (s : State) (mv : HostMove) (rest : List (Option HostMove)),
    step { s with inputs := some mv :: rest } = hostMove mv { s with inputs := rest }) ∧
    ∀ s : State, WillFetch s → FetchLegal s →
      (∀ i, decode (fetchDesc s) = .command i →
        step s = afterCommand (exec i s) ∧
          (∀ t, exec i s = .next t → t.status.busy = true → step s = .next t) ∧
            (∀ t, exec i s = .next t → t.status.busy = false → t.abortReq = false → t.sresetReq = false →
              step s = .next t) ∧
              ∀ rest, step { s with inputs := none :: rest } = afterCommand (exec i { s with inputs := rest })) ∧
        (∀ w, decode (fetchDesc s) = .illegalOpcode w → Faults (step s) .illegalOpcode w s) ∧
          ∀ k, decode (fetchDesc s) = .reservedNonzero k →
            Faults (step s) .reservedNonzero (BitVec.ofNat 32 k) s

/-- R454: the two fetch faults, and a jump to any target completes. -/
def Obligations.FetchFaultsAreTaken : Prop :=
  (∀ s : State, WillFetch s → s.cp.toNat % 64 ≠ 0 → Faults (step s) .fetchMisaligned s.cp s) ∧
    (∀ s : State, WillFetch s → s.cp.toNat % 64 = 0 → Config.dmemBytes < s.cp.toNat + 64 →
      Faults (step s) .fetchRange s.cp s) ∧
      (∀ (s : State) (a : Word), ∃ t, exec (.jump a) s = .next t ∧ t.cp = a ∧ t.status = s.status) ∧
        ∀ (s : State) (a : Word), 2 ≤ s.lc.toNat →
          ∃ t, exec (.loop a) s = .next t ∧ t.cp = a ∧ t.status = s.status

/-- R50, R73, R450, R453, R458, R483, R495, R502: ABORT and SRESET written during a run set their latches; ABORT written
while idle, and a write with no action bit, change nothing; with no host move, an idle block stays as it is, a run with a
pending soft reset is reset with DMEM kept, whether or not an abort is pending, and a run with a pending abort alone ends
at `CP`. That the soft reset keeps the host's last response, as an idle one keeps its slots, is the model's choice
(log 14). -/
def Obligations.LatchesActAtTheBoundary : Prop :=
  (∀ (s : State) (v : Word), s.status.busy = true →
    (v.getLsbD 2 = true → hostMove (.writeCsr 0x10 4 v) s = .next { s with sresetReq := true }) ∧
      (v.getLsbD 2 = false → v.getLsbD 1 = true →
        hostMove (.writeCsr 0x10 4 v) s = .next { s with abortReq := true })) ∧
  (∀ (s : State) (v : Word), s.status.busy = false → v.getLsbD 2 = false → v.getLsbD 1 = true →
    hostMove (.writeCsr 0x10 4 v) s = .next s) ∧
  (∀ (s : State) (v : Word), v.getLsbD 2 = false → v.getLsbD 1 = false → v.getLsbD 0 = false →
    hostMove (.writeCsr 0x10 4 v) s = .next s) ∧
  ∀ s : State, s.inputs = [] →
    (s.status.busy = false → step s = .next s) ∧
      (s.status.busy = true → s.sresetReq = true →
        step s = .next { State.reset with dmem := s.dmem, response := s.response }) ∧
        (s.status.busy = true → s.sresetReq = false → s.abortReq = true →
          step s = .next { s with
            abortReq := false
            status := ⟨false, s.status.fault, s.status.done, true⟩
            irqPend := ⟨s.irqPend.done, s.irqPend.fault, s.irqPend.signal, true⟩ })

/-- R482: START. -/
def Obligations.StartBeginsARun : Prop :=
  ∀ (s : State) (v : Word), v.getLsbD 0 = true → v.getLsbD 1 = false → v.getLsbD 2 = false →
    hostMove (.writeCsr 0x10 4 v) s =
      if s.status.busy = false ∧ s.status.fault = false then
        .next { s with status := ⟨true, false, false, false⟩ }
      else .next s

/-! ## What every command does -/

/-- R202, R456, R457, R460: every command answers a next state, either completed, with one more command retired and no
fault register changed, or after fault entry with one of the five causes of execution and nothing else changed. -/
def Obligations.CommandsCompleteOrFaultPrecisely : Prop :=
  ∀ (i : Instr) (s : State), ∃ t, exec i s = .next t ∧
    ((t.retired = s.retired + 1#64 ∧ t.cause = s.cause ∧ t.faultCp = s.faultCp ∧ t.faultInfo = s.faultInfo ∧
        t.status.fault = s.status.fault ∧ t.irqPend.fault = s.irqPend.fault ∧ t.abortReq = s.abortReq) ∨
      ∃ c v, FaultEntered c v s t ∧
        (c = .badUnit ∨ c = .unconfigured ∨ c = .badField ∨ c = .operandMisaligned ∨ c = .operandRange))

/-- R45, R51, R58, R59, R60, R470: only the commands that report a count write LAST_COUNT, only LSET and LOOP write `LC`,
and no command writes IRQ_EN or the soft-reset latch; no command clears a pending bit; only HALT sets DONE, only SIGNAL
sets SIGNAL, none sets ABORT, and none clears a status flag but BUSY. -/
def Obligations.RegistersWrittenOnlyByTheirCommands : Prop :=
  ∀ (i : Instr) (s t : State), exec i s = .next t →
    ((reportsCount i = false → t.lastCount = s.lastCount) ∧ (writesLoopCounter i = false → t.lc = s.lc) ∧
      t.irqEn = s.irqEn ∧ t.sresetReq = s.sresetReq ∧ t.inputs = s.inputs ∧ t.response = s.response) ∧
      (s.irqPend.done = true → t.irqPend.done = true) ∧ (s.irqPend.fault = true → t.irqPend.fault = true) ∧
        (s.irqPend.signal = true → t.irqPend.signal = true) ∧ t.irqPend.abort = s.irqPend.abort ∧
          (i ≠ .halt → t.irqPend.done = s.irqPend.done ∧ t.status.done = s.status.done) ∧
            (i ≠ .signal → t.irqPend.signal = s.irqPend.signal) ∧
              (s.status.done = true → t.status.done = true) ∧ (s.status.fault = true → t.status.fault = true) ∧
                t.status.aborted = s.status.aborted

/-- R65, R74, R220, R237: an instance that a command does not name for change keeps its whole state. -/
def Obligations.UnitStateIsIsolated : Prop :=
  ∀ (i : Instr) (s t : State), exec i s = .next t → ∀ j : Nat,
    (¬ mayChangeDl s i j → t.dlAt j = s.dlAt j) ∧ (¬ mayChangeHb i j → t.hbAt j = s.hbAt j) ∧
      (¬ mayChangeCh i j → t.chAt j = s.chAt j) ∧ (¬ mayChangeFir s i j → t.firAt j = s.firAt j) ∧
        (¬ mayChangeIir i j → t.iirAt j = s.iirAt j) ∧ (¬ mayChangeGz i j → t.gzAt j = s.gzAt j) ∧
          (¬ mayChangeNco i j → t.ncoAt j = s.ncoAt j)

/-- R451, R452, R456: a unit number that does not exist is reported before anything else, an unconfigured instance
before any field or region, and after the engine itself the unconfigured delay line of a time-domain engine. -/
def Obligations.UnitFaultsComeFirst : Prop :=
  ∀ (i : Instr) (s : State) (u : Nib) (count : Nat), unitOperand i = some (u, count) →
    (count ≤ u.toNat → Faults (exec i s) .badUnit (BitVec.ofNat 32 u.toNat) s) ∧
      (∀ info, u.toNat < count → configOperand s i = some (false, info) →
        Faults (exec i s) .unconfigured (BitVec.ofNat 32 info) s) ∧
        ∀ info, u.toNat < count → configOperand s i = some (true, info) → ¬ lineReady s i →
          Faults (exec i s) .unconfigured (BitVec.ofNat 32 (2 * 256 + (s.firAt u.toNat).dl)) s

/-- R455: where the instances a command names exist and are configured, it faults with BAD_FIELD exactly where a field of
the table is out of its range, the info being the first such field's word index; every command not in the table has no
such fault. -/
def Obligations.FieldFaultsAreTaken : Prop :=
  ∀ (i : Instr) (s : State), (∀ u count, unitOperand i = some (u, count) → u.toNat < count) →
    (∀ b info, configOperand s i = some (b, info) → b = true) → lineReady s i →
      ∀ w, Faults (exec i s) .badField w s ↔ ∃ k, badFieldOf s i = some k ∧ w = BitVec.ofNat 32 k

/-! ## Invariants -/

/-- R100: every step keeps DMEM in its canonical form and inside `0 .. DMEM_BYTES - 1`. -/
def Obligations.StepKeepsMemoryForm : Prop :=
  ∀ s t : State, MemoryInv s → step s = .next t → MemoryInv t

/-- R51, R73, R482, R483: every step keeps the run's flags and latches in agreement. -/
def Obligations.StepKeepsRunFlags : Prop :=
  ∀ s t : State, RunInv s → step s = .next t → RunInv t

/-- R65-R72: every step keeps every instance of every unit bank in the ranges of its rule. Of R72 the mixer's phase range is
left out (`Nco.Ok` says why); NcoPhaseStaysInRange states it under its bound on the increment. -/
def Obligations.StepKeepsUnitRanges : Prop :=
  ∀ s t : State, UnitInv s → step s = .next t → UnitInv t

/-- The three invariants hold after reset. -/
def Obligations.ResetMeetsTheInvariant : Prop := Inv State.reset

/-! ## Reset and the host's registers -/

/-- R46, R53, R54, R75, R500, R501, R502: what the host reads after reset, and that hardware and soft reset leave every
register, latch and unit bank as after reset. The default CAPS values are those of the defaults of R9 (log 1). -/
def Obligations.ResetLeavesTheStatedValues : Prop :=
  ([0x00#8, 0x04#8, 0x08#8, 0x0C#8, 0x10#8, 0x14#8, 0x18#8, 0x1C#8, 0x20#8, 0x24#8, 0x28#8, 0x2C#8, 0x30#8, 0x34#8,
      0x38#8, 0x3C#8].map (readCsr State.reset)) =
      [0x48424443#32, 0x1#32, 0x02444422#32, 0x2014#32] ++ List.replicate 12 0#32 ∧
    (∀ j, (State.reset.dlAt j).cfg = false ∧ (State.reset.hbAt j).cfg = false ∧
      (State.reset.chAt j).stages = [] ∧ (State.reset.firAt j).cfg = false ∧ (State.reset.iirAt j).cfg = false ∧
        (State.reset.gzAt j).cfg = false ∧ (State.reset.ncoAt j).cfg = false) ∧
      (∀ (s : State) (cells : List Host.Cell), ∃ t, hostMove (.hardwareReset cells) s = .next t ∧
        { t with dmem := [], inputs := [], response := .none } = State.reset) ∧
        ∀ (s : State) (v : Word), s.status.busy = false → v.getLsbD 2 = true →
          hostMove (.writeCsr 0x10 4 v) s =
            .next { State.reset with dmem := s.dmem, inputs := s.inputs, response := s.response }

/-- R46-R61, R470, R480: what the host reads of every control register in every state: constants, the places of the status
and interrupt bits, the cause codes of R451, the fault registers and counts; reserved offsets read 0; the constants and the
reserved offsets ignore writes; the interrupt line is the masked pending register. The CAPS values are those of the
defaults of R9 (log 1); that an answer is kept in a response field is the model's choice (log 14). -/
def Obligations.HostRegisterReads : Prop :=
  ∀ s : State,
    ([0x00#8, 0x04#8, 0x08#8, 0x0C#8, 0x10#8].map (readCsr s) =
        [0x48424443#32, 0x00000001#32, 0x02444422#32, 0x00002014#32, 0#32] ∧
      (readCsr s 0x14).toNat =
        s.status.busy.toNat + 2 * s.status.fault.toNat + 4 * s.status.done.toNat + 8 * s.status.aborted.toNat ∧
      (∀ p ∈ [(0x30#8, s.irqEn), (0x34#8, s.irqPend)],
        (readCsr s p.1).toNat = p.2.done.toNat + 2 * p.2.fault.toNat + 4 * p.2.signal.toNat + 8 * p.2.abort.toNat) ∧
      (∀ p ∈ [(Cause.none, 0#32), (.fetchMisaligned, 1#32), (.fetchRange, 2#32), (.illegalOpcode, 3#32),
          (.reservedNonzero, 4#32), (.badUnit, 5#32), (.operandMisaligned, 6#32), (.operandRange, 7#32),
          (.badField, 8#32), (.unconfigured, 9#32)],
        s.cause = p.1 → readCsr s 0x20 = p.2) ∧
      [0x18#8, 0x1C#8, 0x24#8, 0x28#8, 0x2C#8].map (readCsr s) =
        [s.cp, s.lc, s.faultCp, s.faultInfo, s.lastCount] ∧
      s.retired.toNat = (readCsr s 0x3C).toNat * 2 ^ 32 + (readCsr s 0x38).toNat) ∧
    (∀ (o : BitVec 8) (v : Word), 0x40 ≤ o.toNat → o.toNat ≤ 0xFC → readCsr s o = 0#32 ∧ writeCsr s o v = s) ∧
    (∀ v : Word, writeCsr s 0x00 v = s ∧ writeCsr s 0x04 v = s) ∧
    (∀ o : BitVec 8, o.toNat % 4 = 0 → hostMove (.readCsr o 4) s = .next { s with response := .word (readCsr s o) }) ∧
    irqLine s = decide ((readCsr s 0x34 &&& readCsr s 0x30) &&& 0xF#32 ≠ 0#32) ∧
    hostMove .observeIrq s = .next { s with response := .line (irqLine s) }

/-- R46, R47, R51, R59, R60, R480: what a host write of each register but CTRL does, with everything it leaves: `CP` and
`LC` store it only while idle; IRQ_EN stores bits 3:0; a 1 written to a flag of STATUS or IRQ_PEND clears it and BUSY is
read-only; every other register ignores it. -/
def Obligations.HostRegisterWrites : Prop :=
  ∀ (s : State) (v : Word),
    hostMove (.writeCsr 0x18 4 v) s = .next (if s.status.busy then s else { s with cp := v }) ∧
      hostMove (.writeCsr 0x1C 4 v) s = .next (if s.status.busy then s else { s with lc := v }) ∧
        (∃ q, hostMove (.writeCsr 0x30 4 v) s = .next { s with irqEn := q } ∧
          readCsr { s with irqEn := q } 0x30 = v &&& 0xF#32) ∧
          (∃ st, hostMove (.writeCsr 0x14 4 v) s = .next { s with status := st } ∧
            readCsr { s with status := st } 0x14 = readCsr s 0x14 &&& ~~~(v &&& 0xE#32)) ∧
            (∃ q, hostMove (.writeCsr 0x34 4 v) s = .next { s with irqPend := q } ∧
              readCsr { s with irqPend := q } 0x34 = readCsr s 0x34 &&& ~~~v) ∧
              ∀ o : BitVec 8, o ∉ [0x10#8, 0x14#8, 0x18#8, 0x1C#8, 0x30#8, 0x34#8] →
                writeCsr s o v = s ∧ (o.toNat % 4 = 0 → hostMove (.writeCsr o 4 v) s = .next s)

/-- R48, R480, R481: while idle the host reads back the bytes it has stored, every other byte as before; while
`BUSY = 1` it has no move for DMEM, outside DMEM the access stops, and a control-register access that is no aligned
32-bit one is refused. -/
def Obligations.HostMemoryMoves : Prop :=
  (∀ (s : State) (a : Nat) (bs : List Byte), s.dmem.wf = true → s.status.busy = false →
    a + bs.length ≤ Config.dmemBytes →
      ∃ t, hostMove (.writeDmem a bs) s = .next t ∧ KeptOutside s t a bs.length ∧ t = { s with dmem := t.dmem } ∧
        hostMove (.readDmem a bs.length) t = .next { t with response := .bytes bs }) ∧
    (∀ (s : State) (a n : Nat) (bs : List Byte), s.status.busy = true →
      hostMove (.readDmem a n) s = .refused .dmemWhileBusy ∧
        hostMove (.writeDmem a bs) s = .refused .dmemWhileBusy) ∧
      (∀ (s : State) (a n : Nat), s.status.busy = false → Config.dmemBytes < a + n →
        hostMove (.readDmem a n) s = .fault .hostOutsideDmem) ∧
        ∀ (s : State) (o : BitVec 8) (w : Nat) (v : Word), (w ≠ 4 ∨ o.toNat % 4 ≠ 0) →
          hostMove (.readCsr o w) s = .refused .csrAccessShape ∧
            hostMove (.writeCsr o w v) s = .refused .csrAccessShape

/-! ## Control commands -/

/-- R200-R206: NOP, HALT, JUMP, LSET, LOOP and SIGNAL, each with every field it writes and nothing else. LOOP decrements
`LC` unless it is 0, and is taken where the decremented `LC` is not 0. -/
def Obligations.ControlCommandsComplete : Prop :=
  ∀ s : State,
    exec .nop s = .next { s with cp := s.cp + 64#32, retired := s.retired + 1#64 } ∧
      exec .halt s = .next { s with
        cp := s.cp + 64#32
        retired := s.retired + 1#64
        status := ⟨false, s.status.fault, true, s.status.aborted⟩
        irqPend := ⟨true, s.irqPend.fault, s.irqPend.signal, s.irqPend.abort⟩ } ∧
      (∀ a, exec (.jump a) s = .next { s with cp := a, retired := s.retired + 1#64 }) ∧
      (∀ n, exec (.lset n) s = .next { s with lc := n, cp := s.cp + 64#32, retired := s.retired + 1#64 }) ∧
      (∀ a, exec (.loop a) s = .next { s with
        lc := BitVec.ofNat 32 (s.lc.toNat - 1)
        cp := if 2 ≤ s.lc.toNat then a else s.cp + 64#32
        retired := s.retired + 1#64 }) ∧
      exec .signal s = .next { s with
        irqPend := ⟨s.irqPend.done, s.irqPend.fault, true, s.irqPend.abort⟩
        cp := s.cp + 64#32
        retired := s.retired + 1#64 }

/-! ## Complex arithmetic -/

/-- R220, R224-R227: VADD, VSUB, VMUL and VDIV on legal regions: the result of every element from the operands as they
were before the command, and nothing else changed. -/
def Obligations.BinaryCommandsComputeElementwise : Prop :=
  ∀ (s : State) (a b d n : Word), s.dmem.wf = true → LegalCpxs a n.toNat → LegalCpxs b n.toNat →
    LegalCpxs d n.toNat →
      ∀ p ∈ [(Instr.vadd a b d n, cadd), (.vsub a b d n, csub), (.vmul a b d n, cmul), (.vdiv a b d n, cdiv)],
        ∃ t, exec p.1 s = .next t ∧
          (∀ k < n.toNat,
            rdC t.dmem (d.toNat + 16 * k) = p.2 (rdC s.dmem (a.toNat + 16 * k)) (rdC s.dmem (b.toNat + 16 * k))) ∧
          KeptOutside s t d.toNat (16 * n.toNat) ∧ Completed s t ∧ SameUnits s t ∧ t.lastCount = s.lastCount

/-- R220, R228-R233, R235: the commands with one CPX source. -/
def Obligations.UnaryCommandsComputeElementwise : Prop :=
  ∀ (s : State) (a d n : Word) (k0 : F64), s.dmem.wf = true → LegalCpxs a n.toNat →
    (LegalCpxs d n.toNat →
      ∀ p ∈ [(Instr.vscale a d n k0, fun z => cscale z k0), (.vconj a d n, cconj), (.vpolar a d n, polar),
          (.vrect a d n, rect), (.vcopy a d n, id)],
        ∃ t, exec p.1 s = .next t ∧
          (∀ k < n.toNat, rdC t.dmem (d.toNat + 16 * k) = p.2 (rdC s.dmem (a.toNat + 16 * k))) ∧
          KeptOutside s t d.toNat (16 * n.toNat) ∧ Completed s t ∧ SameUnits s t ∧ t.lastCount = s.lastCount) ∧
      (LegalReals d n.toNat →
        ∀ p ∈ [(Instr.vmag a d n, mag), (.vsqmag a d n, sqmag)],
          ∃ t, exec p.1 s = .next t ∧
            (∀ k < n.toNat, rdR t.dmem (d.toNat + 8 * k) = p.2 (rdC s.dmem (a.toNat + 16 * k))) ∧
            KeptOutside s t d.toNat (8 * n.toNat) ∧ Completed s t ∧ SameUnits s t ∧ t.lastCount = s.lastCount)

/-- R234, R236: VCLEAR stores zero bytes; VDECIM stores every `M`-th element and reports the count. -/
def Obligations.ClearAndDecimateComplete : Prop :=
  (∀ (s : State) (d n : Word), s.dmem.wf = true → LegalCpxs d n.toNat →
    ∃ t, exec (.vclear d n) s = .next t ∧
      (∀ x, d.toNat ≤ x → x < d.toNat + 16 * n.toNat → readByte t.dmem x = 0#8) ∧
      KeptOutside s t d.toNat (16 * n.toNat) ∧ Completed s t ∧ SameUnits s t ∧ t.lastCount = s.lastCount) ∧
    ∀ (s : State) (a d n m : Word), s.dmem.wf = true → m ≠ 0 → LegalCpxs a n.toNat →
      LegalCpxs d (n.toNat / m.toNat) →
        ∃ t, exec (.vdecim a d n m) s = .next t ∧
          (∀ k < n.toNat / m.toNat,
            rdC t.dmem (d.toNat + 16 * k) = rdC s.dmem (a.toNat + 16 * (k * m.toNat))) ∧
          KeptOutside s t d.toNat (16 * (n.toNat / m.toNat)) ∧ Completed s t ∧ SameUnits s t ∧
          t.lastCount.toNat = n.toNat / m.toNat

/-- R237, R240-R243: the reductions store one binary64, `+0.0` of an empty buffer. -/
def Obligations.ReductionsComplete : Prop :=
  ∀ (s : State) (a d n : Word), s.dmem.wf = true → LegalCpxs a n.toNat → LegalReals d 1 →
    ∀ p ∈ [(Instr.vnormsqr a d n, normSqr), (.vnorm a d n, rmsNorm), (.vpeak a d n, peakOf mag),
        (.vpeakpwr a d n, peakOf sqmag)],
      ∃ t, exec p.1 s = .next t ∧ rdR t.dmem d.toNat = p.2 (readCpxs s.dmem a.toNat n.toNat) ∧
        (n = 0 → rdR t.dmem d.toNat = 0#64) ∧ KeptOutside s t d.toNat 8 ∧ Completed s t ∧ SameUnits s t ∧
        t.lastCount = s.lastCount

/-- R103, R104, R144, R456: where the instances a command names exist and are configured and no field is out of its range,
every command, of whatever family, faults with OPERAND_MISALIGNED at the first of its regions A, B, D that is misaligned,
else with OPERAND_RANGE at the first one that has elements and reaches past DMEM, else completes. -/
def Obligations.RegionFaultsInOrder : Prop :=
  ∀ (i : Instr) (s : State), (∀ u count, unitOperand i = some (u, count) → u.toNat < count) →
    (∀ b info, configOperand s i = some (b, info) → b = true) → lineReady s i → badFieldOf s i = none →
      (∀ a, misalignedOf s i = some a → Faults (exec i s) .operandMisaligned a s) ∧
        (misalignedOf s i = none → ∀ a, outsideOf s i = some a → Faults (exec i s) .operandRange a s) ∧
          (misalignedOf s i = none → outsideOf s i = none → ∃ t, exec i s = .next t ∧ t.retired = s.retired + 1#64)

/-- R222, R223: dividing finite parts by a zero of either sign gives zeros, and the phase of a zero is `+0.0`. -/
def Obligations.ZeroGuards : Prop :=
  ∀ a b : Cpx, isFinite a.re = true → isFinite a.im = true → isZero b.re = true → isZero b.im = true →
    isZero (cdiv a b).re = true ∧ isZero (cdiv a b).im = true ∧ divDenominator b = Config.eps ∧
      polar b = ⟨0#64, 0#64⟩

/-- R12: the sum of two finite values, where it does not overflow, is a finite value nearest the exact sum. (Ties
to even and the other operations are in ArithmeticRoundsToNearestEven.) The details R12 leaves to IEEE 754 are log 26. -/
def Obligations.SumIsNearest : Prop :=
  ∀ x y z : F64, isFinite x = true → isFinite y = true → isFinite (fadd x y) = true → isFinite z = true →
    (intUnits (fadd x y) - (intUnits x + intUnits y)).natAbs ≤
      (intUnits z - (intUnits x + intUnits y)).natAbs

/-- R12: on finite operands `+`, `-`, `*` and, by a divisor that is not zero, `/` give the exact result rounded once to
nearest, ties to even. Units are 2^-1074, so a product has denominator 2^1074 and a quotient that of the divisor. The
infinity of a result too large is IEEE 754's (log 26). -/
def Obligations.ArithmeticRoundsToNearestEven : Prop :=
  ∀ x y : F64, isFinite x = true → isFinite y = true →
    RoundsTo (fadd x y) (intUnits x + intUnits y) 1 ∧ RoundsTo (fsub x y) (intUnits x - intUnits y) 1 ∧
      RoundsTo (fmul x y) (intUnits x * intUnits y) (2 ^ 1074) ∧
        (isZero y = false →
          RoundsTo (fdiv x y) ((if signBit y then -1 else 1) * intUnits x * 2 ^ 1074) (unitsOf y))

/-- R10: SQRT of a positive finite value is the non-negative finite value nearest its root: the root is not past the
midpoint towards any other. (Zeros and negative values, left to IEEE 754, are log 26.) -/
def Obligations.SquareRootIsNearest : Prop :=
  ∀ x : F64, isFinite x = true → isZero x = false → signBit x = false →
    isFinite (fsqrt x) = true ∧ signBit (fsqrt x) = false ∧
      ∀ z : F64, isFinite z = true → signBit z = false →
        (unitsOf (fsqrt x) < unitsOf z → 4 * (unitsOf x * 2 ^ 1074) ≤ (unitsOf (fsqrt x) + unitsOf z) ^ 2) ∧
          (unitsOf z < unitsOf (fsqrt x) → (unitsOf (fsqrt x) + unitsOf z) ^ 2 ≤ 4 * (unitsOf x * 2 ^ 1074))

/-! ## Delay line -/

/-- R263, R264: DL.CFG makes a zeroed line; DL.PUSH inserts the samples in order. -/
def Obligations.DelayLineConfigureAndPush : Prop :=
  (∀ (s : State) (u : Nib) (n m : Word), u.toNat < Config.dlUnits → 1 ≤ n.toNat → n.toNat ≤ Config.dlMaxSize →
    m.toNat < n.toNat →
      ∃ t, exec (.dlCfg u n m) s = .next t ∧
        t.dlAt u.toNat = ⟨true, m.toNat, 0, List.replicate n.toNat Cpx.zero⟩ ∧ OnlyDl u.toNat s t ∧ KeptDmem s t ∧
        Completed s t ∧ t.lastCount = s.lastCount) ∧
    ∀ (s : State) (u : Nib) (a n : Word), u.toNat < Config.dlUnits → (s.dlAt u.toNat).cfg = true →
      LegalCpxs a n.toNat →
        ∃ t, exec (.dlPush u a n) s = .next t ∧
          t.dlAt u.toNat = (readCpxs s.dmem a.toNat n.toNat).foldl newSample (s.dlAt u.toNat) ∧
          OnlyDl u.toNat s t ∧ KeptDmem s t ∧ Completed s t ∧ t.lastCount = s.lastCount

/-- R262, R265, R266: DL.TAP stores one sample of the ring, DL.MAC one sum over it; the line is unchanged. The sum of each
channel runs over the coefficients in ascending order from `+0.0`, and a NaN sum is replaced by `+0.0`. -/
def Obligations.DelayLineTapAndMac : Prop :=
  (∀ (l : DelayLine) (cs : List F64),
    (let total := fun part : Cpx → F64 =>
      ((List.range cs.length).zip cs).foldl (fun acc r => fadd acc (fmul (part (nextDelay l r.1)) r.2)) 0#64
     mac l cs = ⟨if isNaN (total Cpx.re) then 0#64 else total Cpx.re,
      if isNaN (total Cpx.im) then 0#64 else total Cpx.im⟩)) ∧
  ∀ (s : State) (u : Nib) (d : Word), s.dmem.wf = true → u.toNat < Config.dlUnits → (s.dlAt u.toNat).cfg = true →
    LegalCpxs d 1 →
      (∀ m, ∃ t, exec (.dlTap u d m) s = .next t ∧
        rdC t.dmem d.toNat = nextDelay (s.dlAt u.toNat) m.toNat ∧ KeptOutside s t d.toNat 16 ∧ SameUnits s t ∧
        Completed s t ∧ t.lastCount = s.lastCount) ∧
      ∀ a n, LegalReals a n.toNat →
        ∃ t, exec (.dlMac u a d n) s = .next t ∧
          rdC t.dmem d.toNat = mac (s.dlAt u.toNat) (readReals s.dmem a.toNat n.toNat) ∧
          KeptOutside s t d.toNat 16 ∧ SameUnits s t ∧ Completed s t ∧ t.lastCount = s.lastCount

/-- R261, R268: after samples are pushed, index 0 is the newest and index `k` the one pushed `k` earlier, counted from
the line's delay; any index reads the ring at its place modulo the size. -/
def Obligations.DelayLineIsAFifo : Prop :=
  ∀ (l : DelayLine) (xs : List Cpx), 1 ≤ l.size → l.last < l.size →
    (∀ (k : Nat) (h : k < xs.length), l.delay ≤ k → k < l.size →
      nextDelay (xs.foldl newSample l) (k - l.delay) = xs[xs.length - 1 - k]) ∧
      (∀ i, l.ring[(l.last + l.delay + i) % l.size]? = some (nextDelay l i) ∧ nextDelay l i = nextDelay l (i % l.size)) ∧
        (xs.foldl newSample l).last < l.size ∧ (xs.foldl newSample l).size = l.size

/-! ## Halfband stages -/

/-- R290: HB.CFG in its three modes. -/
def Obligations.HalfbandConfigure : Prop :=
  ∀ (s : State) (u mode : Nib) (a n m p : Word) (k0 : F64), u.toNat < Config.hbUnits → (p = 2 ∨ p = 4) →
    (mode = 0 ∧ m.toNat < 14 ∨
      mode = 1 ∧ n.toNat % 2 = 1 ∧ 3 ≤ n.toNat ∧ n.toNat ≤ Config.hbMaxTaps ∧ LegalReals a n.toNat ∨ mode = 2) →
      ∃ t, exec (.hbCfg u mode a n m p k0) s = .next t ∧
        (∀ d : Fin 14, mode = 0 → m.toNat = d.val →
          (t.hbAt u.toNat).design = .table d ∧ (t.hbAt u.toNat).wpass = wpass d ∧
            (t.hbAt u.toNat).form = (if d.val = 0 then .cic3 else .fir) ∧
              (t.hbAt u.toNat).coeff = if d.val = 0 then [] else hbCoeff d) ∧
        (mode = 1 → (t.hbAt u.toNat).design = .direct ∧ (t.hbAt u.toNat).form = .fir ∧
          (t.hbAt u.toNat).coeff = readReals s.dmem a.toNat n.toNat ∧ (t.hbAt u.toNat).wpass = k0) ∧
        (mode = 2 → (t.hbAt u.toNat).design = .direct ∧ (t.hbAt u.toNat).form = .cic3 ∧
          (t.hbAt u.toNat).coeff = [] ∧ (t.hbAt u.toNat).wpass = k0) ∧
        (t.hbAt u.toNat).cfg = true ∧ decimNat (t.hbAt u.toNat).decim = p.toNat ∧
        (t.hbAt u.toNat).pass0 = PassState.zero ((t.hbAt u.toNat).tapCount - 1) ∧
        (t.hbAt u.toNat).pass1 = PassState.zero ((t.hbAt u.toNat).tapCount - 1) ∧
        OnlyHb u.toNat s t ∧ KeptDmem s t ∧ Completed s t ∧ t.lastCount = s.lastCount

/-- R287, R291: HB.RUN on a configured stage: its output and its count, the pass states alone changed in the unit. -/
def Obligations.HalfbandRun : Prop :=
  ∀ (s : State) (u : Nib) (a d n : Word), s.dmem.wf = true → u.toNat < Config.hbUnits →
    (s.hbAt u.toNat).cfg = true → LegalCpxs a n.toNat → LegalCpxs d ((s.hbAt u.toNat).count n.toNat) →
      ∃ t, exec (.hbRun u a d n) s = .next t ∧
        (let h := s.hbAt u.toNat
         let r := stageApply h.form h.coeff h.decim h.pass0 h.pass1 (readCpxs s.dmem a.toNat n.toNat)
         t.hbAt u.toNat = { h with pass0 := r.1, pass1 := r.2.1 } ∧
           readCpxs t.dmem d.toNat (h.count n.toNat) = r.2.2 ∧
           KeptOutside s t d.toNat (16 * h.count n.toNat) ∧ t.lastCount.toNat = h.count n.toNat) ∧
        OnlyHb u.toNat s t ∧ Completed s t

/-- R282-R287: the output count of a pass and of a stage, before it runs, and the value of every output: of a CIC3 pass the
fixed formula over two pairs of the samples in a row, the first ones from its state; of a FIR pass given enough samples the
ascending sum of the taps against the latest samples, each zero tap but the center one skipped (a NaN tap is not zero,
log 10). -/
def Obligations.PassOutputsAndCounts : Prop :=
  (∀ (st : PassState) (x : List Cpx),
    (let w := [st.xEven, st.xOdd] ++ (if st.hasPend then [st.pend] else []) ++ x
     let o := fun e0 o0 e1 o1 : F64 =>
       fmul 0x3FC0000000000000#64 (fadd (fadd o1 e0) (fmul 0x4008000000000000#64 (fadd o0 e1)))
     (cicpass st x).2.length = (x.length + if st.hasPend then 1 else 0) / 2 ∧
       ∀ (m : Nat) (h : 2 * m + 3 < w.length),
         (cicpass st x).2[m]? =
           some ⟨o w[2 * m].re w[2 * m + 1].re w[2 * m + 2].re w[2 * m + 3].re,
             o w[2 * m].im w[2 * m + 1].im w[2 * m + 2].im w[2 * m + 3].im⟩)) ∧
    (∀ (h : List F64) (st : PassState) (x : List Cpx),
      (firpass h st x).2.length = (x.length + 1 - st.ph.val) / 2 ∧
        (st.hist.length = h.length - 1 → h.length ≤ x.length → ∀ m < (x.length + 1 - st.ph.val) / 2,
          (let newestFirst := (((st.hist ++ x).drop (2 * m + st.ph.val)).take h.length).reverse
           let used := ((List.range h.length).zip (h.zip newestFirst)).filter fun r =>
             !isZero r.2.1 || r.1 == (h.length - 1) / 2
           (firpass h st x).2[m]? =
             some (used.foldl (fun acc r => ⟨fadd acc.re (fmul r.2.1 r.2.2.re), fadd acc.im (fmul r.2.1 r.2.2.im)⟩)
               Cpx.zero)))) ∧
      ∀ (form : PassForm) (h : List F64) (p0 p1 : PassState) (x : List Cpx),
        (stageApply form h .two p0 p1 x).2.2.length = passCount form p0 x.length ∧
          (stageApply form h .four p0 p1 x).2.2.length = passCount form p1 (passCount form p0 x.length)

/-- R288: any split of the input of a CIC3 pass, and a split of the input of a FIR pass into calls of at least `T`
samples, gives the outputs and the state of one call; a shorter call to a FIR pass outputs unfiltered samples.
Where samples are NaN the equality also rests on log 6. -/
def Obligations.PassesContinueAcrossCalls : Prop :=
  (∀ (st : PassState) (x y : List Cpx),
    cicpass st (x ++ y) =
      ((cicpass (cicpass st x).1 y).1, (cicpass st x).2 ++ (cicpass (cicpass st x).1 y).2)) ∧
    (∀ (h : List F64) (st : PassState) (x y : List Cpx), 1 ≤ h.length → st.hist.length = h.length - 1 →
      h.length ≤ x.length → h.length ≤ y.length →
        firpass h st (x ++ y) =
          ((firpass h (firpass h st x).1 y).1, (firpass h st x).2 ++ (firpass h (firpass h st x).1 y).2)) ∧
      ∀ (h : List F64) (st : PassState) (x : List Cpx), x.length < h.length →
        (firpass h st x).2 =
          (((List.range x.length).zip x).filter fun r => (st.ph.val + r.1) % 2 == 0).map Prod.snd

/-- R281: the four constraints on the design table. -/
def Obligations.DesignTableMeetsItsConstraints : Prop :=
  ∀ d : Fin 14, 1 ≤ d.val →
    (hbCoeff d).length = hbTaps d ∧
      (∀ k, k < hbTaps d → k % 2 = 1 → k ≠ (hbTaps d - 1) / 2 → (hbCoeff d)[k]? = some 0#64) ∧
        sumAscending (hbCoeff d) = fOne ∧ isFinite (wpass d) = true ∧ flt fZero (wpass d) = true

/-! ## Decimator chains -/

/-- R313, R317: CH.BUILD replaces the chain, stores the report record and reports the stage count; the worked build and its
counts. -/
def Obligations.ChainBuild : Prop :=
  (∀ (s : State) (u : Nib) (d n m p : Word), s.dmem.wf = true → u.toNat < Config.chainUnits → n ≠ 0 →
    LegalRegion d 1 16 8 →
      ∃ t, exec (.chBuild u d n m p) s = .next t ∧ t.chAt u.toNat = buildChain n m p ∧
        rdR t.dmem d.toNat = (buildChain n m p).achieved ∧
        memRead t.dmem (d.toNat + 8) 4 = (buildChain n m p).nstages ∧
        memRead t.dmem (d.toNat + 12) 4 = (if (buildChain n m p).trunc then 1 else 0) ∧
        t.lastCount.toNat = (buildChain n m p).nstages ∧ KeptOutside s t d.toNat 16 ∧ OnlyCh u.toNat s t ∧
        Completed s t) ∧
    (let c := buildChain 2048000 1 0
     c.stages.map (fun g => (g.design.val, decimNat g.decim, g.rateIn)) =
         [(0, 4, ofNatF 2048000), (0, 4, ofNatF 512000), (0, 4, ofNatF 128000), (0, 2, ofNatF 32000)] ∧
       c.achieved = ofNatF 16000 ∧ c.nstages = 4 ∧ c.trunc = false ∧
         chainCount c.stages 256 = 2 ∧ chainCount c.stages 64 = 0) ∧
      ∀ (s : State) (d : Word), LegalRegion d 1 16 8 →
        ∃ t, exec (.chBuild 0 d 2048000 1 0) s = .next t ∧ t.lastCount = 4 ∧ (t.chAt 0).nstages = 4

/-- R314 (a): the achieved rate is the input rate divided by two once for each decimation, exactly. -/
def Obligations.ChainRateIsExact : Prop :=
  ∀ n m p : Word, n ≠ 0 →
    unitsOf (buildChain n m p).achieved *
        2 ^ ((buildChain n m p).stages.map fun g => (decimNat g.decim).log2).sum =
      n.toNat * 2 ^ 1074 ∧
      isFinite (buildChain n m p).achieved = true

/-- R311, R312, R314 (b)-(e): where the builder stops, and what its stages satisfy: the first takes the input rate, each
other one and the achieved rate the rate before it halved once or, by a merged stage, twice; no stage that halves once is
followed by one of its own design. (R314's "`target <= achieved`" is stated for a chain with a stage: a chain that makes
none has the input rate, which may be below the target.) -/
def Obligations.ChainStagesFollowTheSelection : Prop :=
  ∀ n m p : Word, n ≠ 0 →
    (let c := buildChain n m p
     let target := ofNatF (if p = 0 then 15000 else p.toNat)
     let rateOut := fun g : Stage => if g.decim = .two then fdiv g.rateIn fTwo else fdiv (fdiv g.rateIn fTwo) fTwo
     c.trunc = fle target (fdiv c.achieved fTwo) ∧
       (c.trunc = false ∨ chooseDesign (ofNatF m.toNat) c.achieved = none) ∧
         (c.stages ≠ [] → fle target c.achieved = true) ∧
           c.nstages ≤ 32 ∧
             c.stages.map Stage.rateIn ++ [c.achieved] = ofNatF n.toNat :: c.stages.map rateOut ∧
               (∀ (k : Nat) (h : k + 1 < c.stages.length),
                 c.stages[k].decim = .two → c.stages[k + 1].design ≠ c.stages[k].design) ∧
                 ∀ g ∈ c.stages, chooseDesign (ofNatF m.toNat) g.rateIn = some g.design ∧
                   fle (fdiv (ofNatF m.toNat) (wpass g.design)) g.rateIn = true ∧
                     (g.decim = .four → chooseDesign (ofNatF m.toNat) (fdiv g.rateIn fTwo) = some g.design) ∧
                       g.pass0 = PassState.zero (hbTaps g.design - 1) ∧
                         g.pass1 = PassState.zero (hbTaps g.design - 1))

/-- R316: CH.PROC: the stages in order on the input; an empty chain copies. -/
def Obligations.ChainProcess : Prop :=
  ∀ (s : State) (u : Nib) (a d n : Word), s.dmem.wf = true → u.toNat < Config.chainUnits →
    n.toNat ≤ Config.chMaxIn → LegalCpxs a n.toNat →
      LegalCpxs d (chainCount (s.chAt u.toNat).stages n.toNat) →
        ∃ t, exec (.chProc u a d n) s = .next t ∧
          (let c := s.chAt u.toNat
           let q := chainCount c.stages n.toNat
           let r := runStages c.stages (readCpxs s.dmem a.toNat n.toNat)
           t.chAt u.toNat = { c with stages := r.1 } ∧ readCpxs t.dmem d.toNat q = r.2 ∧
             KeptOutside s t d.toNat (16 * q) ∧ t.lastCount.toNat = q ∧
             (c.stages = [] → q = n.toNat ∧ t.chAt u.toNat = c ∧
               ∀ k < n.toNat, rdC t.dmem (d.toNat + 16 * k) = rdC s.dmem (a.toNat + 16 * k))) ∧
          OnlyCh u.toNat s t ∧ Completed s t

/-- R318: CH.INFO stores one record for each stage and leaves the chain alone. -/
def Obligations.ChainInfo : Prop :=
  ∀ (s : State) (u : Nib) (d : Word), s.dmem.wf = true → u.toNat < Config.chainUnits →
    (s.chAt u.toNat).nstages ≤ Config.maxStages → LegalRegion d (s.chAt u.toNat).nstages 16 8 →
      ∃ t, exec (.chInfo u d) s = .next t ∧
        (∀ (k : Nat) (h : k < (s.chAt u.toNat).stages.length),
          rdR t.dmem (d.toNat + 16 * k) = (s.chAt u.toNat).stages[k].rateIn ∧
            memRead t.dmem (d.toNat + 16 * k + 8) 4 = (s.chAt u.toNat).stages[k].design.val ∧
              memRead t.dmem (d.toNat + 16 * k + 12) 4 = decimNat (s.chAt u.toNat).stages[k].decim) ∧
        t.lastCount.toNat = (s.chAt u.toNat).nstages ∧
        KeptOutside s t d.toNat (16 * (s.chAt u.toNat).nstages) ∧ SameUnits s t ∧ Completed s t

/-- R320: a decimate-by-4 stage, on any input split into calls in any way, outputs what two decimate-by-2 stages of its
design in series output, call by call, and ends with their pass states. -/
def Obligations.MergedStageEqualsTwoStages : Prop :=
  ∀ (g a b : Stage) (calls : List (List Cpx)), g.decim = .four → a.decim = .two → b.decim = .two →
    a.design = g.design → b.design = g.design → a.pass0 = g.pass0 → b.pass0 = g.pass1 →
      (feedCalls [g] calls).2 = (feedCalls [a, b] calls).2 ∧
        ((feedCalls [g] calls).1.flatMap fun h => [h.pass0, h.pass1]) =
          (feedCalls [a, b] calls).1.map fun h => h.pass0

/-! ## FIR -/

/-- R345-R348: the tap generators on legal operands. -/
def Obligations.FirGenerators : Prop :=
  ∀ (s : State) (mode : Nib) (d n : Word) (k0 k1 : F64), s.dmem.wf = true → mode.toNat ≤ 2 → n.toNat % 2 = 1 →
    n.toNat ≤ Config.firMaxTaps → flt fZero k0 = true → LegalReals d n.toNat →
      (flt k0 fHalf = true →
        ∀ p ∈ [(Instr.firGenlp mode d n k0, genLP n.toNat k0 mode),
            (.firGenhp mode d n k0, invertTaps (genLP n.toNat k0 mode))],
          ∃ t, exec p.1 s = .next t ∧ readReals t.dmem d.toNat n.toNat = p.2 ∧
            KeptOutside s t d.toNat (8 * n.toNat) ∧ SameUnits s t ∧ Completed s t ∧ t.lastCount = s.lastCount) ∧
        (flt k0 k1 = true → flt k1 fHalf = true →
          ∀ p ∈ [(Instr.firGenbs mode d n k0 k1,
                List.zipWith fadd (genLP n.toNat k0 mode) (invertTaps (genLP n.toNat k1 mode))),
              (.firGenbp mode d n k0 k1,
                invertTaps (List.zipWith fadd (genLP n.toNat k0 mode) (invertTaps (genLP n.toNat k1 mode))))],
            ∃ t, exec p.1 s = .next t ∧ readReals t.dmem d.toNat n.toNat = p.2 ∧
              KeptOutside s t d.toNat (8 * n.toNat) ∧ SameUnits s t ∧ Completed s t ∧ t.lastCount = s.lastCount)

/-- R342-R344: FIR.INVERT and FIR.REVERSE, tap by tap; reversing twice restores the taps. -/
def Obligations.FirTransforms : Prop :=
  (∀ (s : State) (a d n : Word), s.dmem.wf = true → 1 ≤ n.toNat → n.toNat ≤ Config.firMaxTaps →
    LegalReals a n.toNat → LegalReals d n.toNat →
      (n.toNat % 2 = 1 →
        ∃ t, exec (.firInvert a d n) s = .next t ∧
          (∀ k < n.toNat, rdR t.dmem (d.toNat + 8 * k) =
            if k = (n.toNat - 1) / 2 then fadd (fneg (rdR s.dmem (a.toNat + 8 * k))) fOne
            else fneg (rdR s.dmem (a.toNat + 8 * k))) ∧
          KeptOutside s t d.toNat (8 * n.toNat) ∧ SameUnits s t ∧ Completed s t ∧ t.lastCount = s.lastCount) ∧
        ∃ t, exec (.firReverse a d n) s = .next t ∧
          (∀ k < n.toNat, rdR t.dmem (d.toNat + 8 * k) =
            if k % 2 = 1 then fneg (rdR s.dmem (a.toNat + 8 * k)) else rdR s.dmem (a.toNat + 8 * k)) ∧
          KeptOutside s t d.toNat (8 * n.toNat) ∧ SameUnits s t ∧ Completed s t ∧ t.lastCount = s.lastCount) ∧
    ∀ h : List F64, reverseTaps (reverseTaps h) = h

/-- R350: FIR.CFG copies the taps and clears the history; no delay line is touched. -/
def Obligations.FirConfigure : Prop :=
  ∀ (s : State) (u mode : Nib) (a n m : Word), u.toNat < Config.firUnits → 1 ≤ n.toNat →
    n.toNat ≤ Config.firMaxTaps → LegalReals a n.toNat →
      (mode = 0 ∧ m.toNat < Config.dlUnits ∨
        mode = 1 ∧ 1 ≤ m.toNat ∧ m.toNat ≤ Config.firMaxBlock ∧ n.toNat ≤ m.toNat + 1) →
        ∃ t, exec (.firCfg u mode a n m) s = .next t ∧
          t.firAt u.toNat =
            { cfg := true
              mode := if mode = 0 then .td else .fd
              taps := readReals s.dmem a.toNat n.toNat
              dl := if mode = 0 then m.toNat else 0
              blk := if mode = 0 then 0 else m.toNat
              xtail := List.replicate (n.toNat - 1) Cpx.zero } ∧
          OnlyFir u.toNat s t ∧ KeptDmem s t ∧ Completed s t ∧ t.lastCount = s.lastCount

/-- R351, R352: FIR.RUN: in the time domain each sample is pushed into the engine's delay line and the taps summed over
it; in the frequency domain the tail keeps the last `ntaps - 1` inputs, and each output is the reference sum or, on a block
that cannot overflow, within the implementation's rounding error of the ideal sum in both channels. (That error's size and
form, and the blocks it covers, are the model's choice, log 8.) -/
def Obligations.FirRun : Prop :=
  ∀ (s : State) (u : Nib) (a d n : Word), s.dmem.wf = true → u.toNat < Config.firUnits →
    (s.firAt u.toNat).cfg = true → LegalCpxs a n.toNat → LegalCpxs d n.toNat →
      (let f := s.firAt u.toNat
       let x := readCpxs s.dmem a.toNat n.toNat
       (f.mode = .td → (s.dlAt f.dl).cfg = true →
         ∃ t, exec (.firRun u a d n) s = .next t ∧
           t.dlAt f.dl = x.foldl newSample (s.dlAt f.dl) ∧
           (∀ k < n.toNat, rdC t.dmem (d.toNat + 16 * k) =
             mac ((x.take (k + 1)).foldl newSample (s.dlAt f.dl)) f.taps) ∧
           KeptOutside s t d.toNat (16 * n.toNat) ∧ OnlyDl f.dl s t ∧ Completed s t ∧
           t.lastCount = s.lastCount) ∧
         (f.mode = .fd → n.toNat = f.blk → f.xtail.length = f.ntaps - 1 →
           ∃ t, exec (.firRun u a d n) s = .next t ∧
             t.firAt u.toNat = { f with xtail := (f.xtail ++ x).drop n.toNat } ∧
             readCpxs t.dmem d.toNat n.toNat = fdOutputs f.taps f.xtail x ∧
             (∀ j < n.toNat,
               (let w := f.xtail ++ x
                let y := rdC t.dmem (d.toNat + 16 * j)
                y = fdReference f.taps w j ∨
                  (fdBounded f.taps w = true →
                    fdNear Cpx.re f.taps w j y.re = true ∧ fdNear Cpx.im f.taps w j y.im = true))) ∧
             KeptOutside s t d.toNat (16 * n.toNat) ∧ OnlyFir u.toNat s t ∧ Completed s t ∧
             t.lastCount = s.lastCount))

/-! ## IIR -/

/-- R372, R375, R376: IIR.CFG loads an engine with zero histories, IIR.RUN filters the samples in order, IIR.CLR zeroes
the histories and keeps the rest. -/
def Obligations.IirCommands : Prop :=
  ∀ (s : State) (u : Nib), s.dmem.wf = true → u.toNat < Config.iirUnits →
    (∀ (mode : Nib) (a n : Word), (mode = 0 ∨ mode = 1) → 1 ≤ n.toNat → n.toNat ≤ 16 →
      LegalReals a (if mode = 0 then 2 * n.toNat + 1 else 5 * n.toNat) →
        ∃ t, exec (.iirCfg u mode a n) s = .next t ∧ (t.iirAt u.toNat).cfg = true ∧
          (mode = 0 → (t.iirAt u.toNat).mode = .direct ∧
            (t.iirAt u.toNat).b = readReals s.dmem a.toNat (n.toNat + 1) ∧
            (t.iirAt u.toNat).a = readReals s.dmem (a.toNat + 8 * (n.toNat + 1)) n.toNat ∧
            (t.iirAt u.toNat).sections = []) ∧
          (mode = 1 → (t.iirAt u.toNat).mode = .cascade ∧ (t.iirAt u.toNat).b = [] ∧ (t.iirAt u.toNat).a = [] ∧
            (t.iirAt u.toNat).sections.map (fun c => [c.b0, c.b1, c.b2, c.a1, c.a2]) =
              (List.range n.toNat).map fun k => readReals s.dmem (a.toNat + 40 * k) 5) ∧
          clearHistories (t.iirAt u.toNat) = t.iirAt u.toNat ∧ OnlyIir u.toNat s t ∧ KeptDmem s t ∧
          Completed s t ∧ t.lastCount = s.lastCount) ∧
      ((s.iirAt u.toNat).cfg = true →
        (∀ a d n : Word, LegalCpxs a n.toNat → LegalCpxs d n.toNat →
          ∃ t, exec (.iirRun u a d n) s = .next t ∧
            t.iirAt u.toNat = (iirRun (s.iirAt u.toNat) (readCpxs s.dmem a.toNat n.toNat)).1 ∧
            readCpxs t.dmem d.toNat n.toNat =
              (iirRun (s.iirAt u.toNat) (readCpxs s.dmem a.toNat n.toNat)).2 ∧
            KeptOutside s t d.toNat (16 * n.toNat) ∧ OnlyIir u.toNat s t ∧ Completed s t ∧
            t.lastCount = s.lastCount) ∧
          ∃ t, exec (.iirClr u) s = .next t ∧ t.iirAt u.toNat = clearHistories (s.iirAt u.toNat) ∧
            OnlyIir u.toNat s t ∧ KeptDmem s t ∧ Completed s t ∧ t.lastCount = s.lastCount)

/-- R371, R373, R374, R376: in the direct form with history long enough, each output is `b0 x[n] + Σ b[k] x[n-k] - Σ a[k]
y[n-k]` summed in that order, each channel by itself, and the histories shift by one. In the cascade the first section is
that recursion of order 2, its output feeding the sections after it, so that a run is the first section's run and then
theirs. On an engine with zero histories, running an input, IIR.CLR, and running it again repeats the outputs bit for
bit. -/
def Obligations.IirRecursion : Prop :=
  (∀ (g : Iir) (b0 : F64) (b : List F64) (z : Cpx), g.mode = .direct → g.b = b0 :: b → b.length = g.order →
    g.re.HasLength g.order → g.im.HasLength g.order →
      (let y := fun (h : Hist) (v : F64) =>
        (List.zip g.a h.y).foldl (fun acc r => fsub acc (fmul r.1 r.2))
          ((List.zip b h.x).foldl (fun acc r => fadd acc (fmul r.1 r.2)) (fadd fZero (fmul b0 v)))
       (iirStep g z).2 = ⟨y g.re z.re, y g.im z.im⟩ ∧
         (1 ≤ g.order →
           (iirStep g z).1 =
             { g with
               re := ⟨z.re :: g.re.x.dropLast, y g.re z.re :: g.re.y.dropLast⟩
               im := ⟨z.im :: g.im.x.dropLast, y g.im z.im :: g.im.y.dropLast⟩ }))) ∧
    (∀ (c : Section) (cs : List Section) (z : Cpx) (x1 x2 y1 y2 u1 u2 v1 v2 : F64),
      c.re = ⟨[x1, x2], [y1, y2]⟩ → c.im = ⟨[u1, u2], [v1, v2]⟩ →
        (let y := fun v x1 x2 y1 y2 : F64 =>
          fsub (fsub (fadd (fadd (fadd fZero (fmul c.b0 v)) (fmul c.b1 x1)) (fmul c.b2 x2)) (fmul c.a1 y1))
            (fmul c.a2 y2)
         let out : Cpx := ⟨y z.re x1 x2 y1 y2, y z.im u1 u2 v1 v2⟩
         cascadeStep (c :: cs) z =
           ({ c with re := ⟨[z.re, x1], [out.re, y1]⟩, im := ⟨[z.im, u1], [out.im, v1]⟩ } :: (cascadeStep cs out).1,
             (cascadeStep cs out).2))) ∧
      (∀ (g : Iir) (c : Section) (cs : List Section) (xs : List Cpx), g.mode = .cascade →
        (iirRun { g with sections := [] } xs).2 = xs ∧
          (let first := iirRun { g with sections := [c] } xs
           let others := iirRun { g with sections := cs } first.2
           iirRun { g with sections := c :: cs } xs =
             ({ g with sections := first.1.sections ++ others.1.sections }, others.2))) ∧
        ∀ (g : Iir) (xs : List Cpx), clearHistories g = g →
          clearHistories (iirRun g xs).1 = g ∧ (iirRun (clearHistories (iirRun g xs).1) xs).2 = (iirRun g xs).2

/-! ## Goertzel -/

/-- R390, R395: GZ.CFG on legal operands. -/
def Obligations.GoertzelConfigure : Prop :=
  ∀ (s : State) (u mode : Nib) (n m p : Word) (k0 k1 k2 : F64), u.toNat < Config.gzUnits → mode.toNat ≤ 2 → n ≠ 0 →
    p.toNat ≤ 2 → isFinite k0 = true → isFinite k1 = true → flt fZero k1 = true →
      (mode = 1 → isFinite k2 = true ∧ fle fZero k2 = true) →
        (mode = 2 → fle fZero k2 = true ∧ fle k2 fOne = true) →
          ∃ t, exec (.gzCfg u mode n m p k0 k1 k2) s = .next t ∧
            (let g := t.gzAt u.toNat
             g.cfg = true ∧ g.nbin = n.toNat ∧ g.lim = m.toNat ∧ g.cnt = 0 ∧ g.bit = false ∧ g.dcnt = 0 ∧ g.quiet = 0 ∧
               g.toneAvg = 0#64 ∧ g.noneAvg = 0#64 ∧ g.thr = 0#64 ∧
               g.mode = (if mode = 0 then .single else if mode = 1 then .threeTone else .adaptive) ∧
               g.insel = (if p = 0 then .re else if p = 1 then .im else .mag) ∧
               g.bin0 = ⟨fmul fTwo (cos (fdiv (fmul Config.twoPi k0) k1)), 0#64, 0#64⟩ ∧
               (let fb := fdiv k1 (fmul fTwo (ofNatF n.toNat))
                g.bin1 = ⟨if mode = 1 then coeffOf (fsub k0 fb) k1 else 0#64, 0#64, 0#64⟩ ∧
                  g.bin2 = ⟨if mode = 1 then coeffOf (fadd k0 fb) k1 else 0#64, 0#64, 0#64⟩) ∧
               g.k = (if feq k2 fZero then
                   (if mode = 1 then Config.gzRatioDefault
                    else if mode = 2 then Config.gzAlphaDefault else 0#64)
                 else k2)) ∧
            OnlyGz u.toNat s t ∧ KeptDmem s t ∧ Completed s t ∧ t.lastCount = s.lastCount

/-- R396: GZ.RUN stores one record for each bin the call completes, `(cnt + N) div nbin` of them, and counts on. -/
def Obligations.GoertzelRun : Prop :=
  ∀ (s : State) (u : Nib) (a d n : Word), s.dmem.wf = true → u.toNat < Config.gzUnits →
    (s.gzAt u.toNat).cfg = true → (s.gzAt u.toNat).cnt < (s.gzAt u.toNat).nbin → LegalCpxs a n.toNat →
      LegalRegion d (((s.gzAt u.toNat).cnt + n.toNat) / (s.gzAt u.toNat).nbin) 32 8 →
        ∃ t, exec (.gzRun u a d n) s = .next t ∧
          (let g := s.gzAt u.toNat
           let q := (g.cnt + n.toNat) / g.nbin
           let r := gzRun g (readCpxs s.dmem a.toNat n.toNat)
           r.2.length = q ∧ t.gzAt u.toNat = r.1 ∧ r.1.cnt = (g.cnt + n.toNat) % g.nbin ∧
             (∀ (k : Nat) (h : k < r.2.length),
               rdR t.dmem (d.toNat + 32 * k) = r.2[k].pc ∧ rdR t.dmem (d.toNat + 32 * k + 8) = r.2[k].plo ∧
                 rdR t.dmem (d.toNat + 32 * k + 16) = r.2[k].phi ∧
                 memRead t.dmem (d.toNat + 32 * k + 24) 4 = (if r.2[k].bit then 1 else 0) ∧
                 memRead t.dmem (d.toNat + 32 * k + 28) 4 = 0) ∧
             KeptOutside s t d.toNat (32 * q) ∧ t.lastCount = BitVec.ofNat 32 q) ∧
          OnlyGz u.toNat s t ∧ Completed s t

/-- R391-R393, R396: the samples given to a detector up to the end of its bin go through the recursion of each active bin,
on the component `insel` selects; the last one of the bin gives the powers, resets the recursions and the count, and runs
the detector once. -/
def Obligations.GoertzelBins : Prop :=
  ∀ (g : Goertzel) (xs : List Cpx),
    (let value := fun z : Cpx =>
      match g.insel with
      | .re => z.re
      | .im => z.im
      | .mag => fsqrt (fadd (fmul z.re z.re) (fmul z.im z.im))
     let run := fun b : GzBin =>
       xs.foldl (fun b z => ⟨b.coeff, fsub (fadd (value z) (fmul b.coeff b.s1)) b.s2, b.s1⟩) b
     let power := fun b : GzBin =>
       fsub (fadd (fmul b.s1 b.s1) (fmul b.s2 b.s2)) (fmul (fmul b.coeff b.s1) b.s2)
     let offBin := fun (b : GzBin) (b' : GzBin) => if g.mode = .threeTone then b' else b
     (g.cnt + xs.length < g.nbin →
       gzRun g xs =
         ({ g with
            bin0 := run g.bin0
            bin1 := offBin g.bin1 (run g.bin1)
            bin2 := offBin g.bin2 (run g.bin2)
            cnt := g.cnt + xs.length }, [])) ∧
       (g.cnt + xs.length = g.nbin → xs ≠ [] →
         (let pc := power (run g.bin0)
          let plo := if g.mode = .threeTone then power (run g.bin1) else 0#64
          let phi := if g.mode = .threeTone then power (run g.bin2) else 0#64
          let g' := detect
            { g with
              bin0 := ⟨g.bin0.coeff, 0#64, 0#64⟩
              bin1 := offBin g.bin1 ⟨g.bin1.coeff, 0#64, 0#64⟩
              bin2 := offBin g.bin2 ⟨g.bin2.coeff, 0#64, 0#64⟩
              cnt := 0 } pc plo phi
          gzRun g xs = (g', [⟨pc, plo, phi, g'.bit⟩]))))

/-- R394: the three detectors, once for a bin; and over bins in a row that contradict the reported bit, the three-tone
detector counts them and flips the bit at the `max(lim, 1)`-th. -/
def Obligations.GoertzelDetectors : Prop :=
  (∀ (g : Goertzel) (pc plo phi : F64),
    (g.mode = .single → detect g pc plo phi = { g with bit := false }) ∧
      (g.mode = .threeTone →
        (let det := flt (fmul g.k (fdiv (fadd plo phi) fTwo)) pc
         let count := min (g.dcnt + 1) (2 ^ 32 - 1)
         detect g pc plo phi =
           if det = g.bit then { g with dcnt := 0 }
           else if max g.lim 1 ≤ count then { g with bit := det, dcnt := 0 }
           else { g with dcnt := count })) ∧
        (g.mode = .adaptive →
          (let det := flt g.thr pc
           let weigh := fun avg : F64 => fadd (fmul (fsub fOne g.k) avg) (fmul g.k pc)
           let tone := if det then weigh g.toneAvg else g.toneAvg
           let none := if det then g.noneAvg else weigh g.noneAvg
           let mid := fdiv (fadd tone none) fTwo
           let count := min (g.quiet + 1) (2 ^ 32 - 1)
           detect g pc plo phi =
             if det ≠ g.bit then { g with toneAvg := tone, noneAvg := none, thr := mid, bit := det, quiet := 0 }
             else if g.lim ≠ 0 ∧ g.lim ≤ count then
               { g with toneAvg := tone, noneAvg := none, thr := fdiv mid fTwo, quiet := 0 }
             else { g with toneAvg := tone, noneAvg := none, thr := mid, quiet := count }))) ∧
    ∀ (g : Goertzel) (ps : List (F64 × F64 × F64)), g.mode = .threeTone → g.dcnt = 0 → g.lim < 2 ^ 32 →
      (∀ p ∈ ps, flt (fmul g.k (fdiv (fadd p.2.1 p.2.2) fTwo)) p.1 ≠ g.bit) →
        (let r := ps.foldl (fun g p => detect g p.1 p.2.1 p.2.2) g
         (ps.length < max g.lim 1 → r = { g with dcnt := ps.length }) ∧
           (ps.length = max g.lim 1 → r = { g with bit := !g.bit, dcnt := 0 }))

/-! ## NCO -/

/-- R420-R424: NCO.CFG and NCO.FREQ on legal frequencies, NCO.MIX on a configured mixer. -/
def Obligations.NcoCommands : Prop :=
  ∀ (s : State) (u : Nib), s.dmem.wf = true → u.toNat < Config.ncoUnits →
    (∀ k0 k1 k2 : F64, isFinite k1 = true → flt fZero k1 = true → isFinite k0 = true → flt (fneg k1) k0 = true →
      flt k0 k1 = true → fle fZero k2 = true → flt k2 Config.twoPi = true →
        ∃ t, exec (.ncoCfg u k0 k1 k2) s = .next t ∧
          t.ncoAt u.toNat = ⟨true, k1, fdiv (fmul Config.twoPi k0) k1, if isZero k2 then 0#64 else k2⟩ ∧
          OnlyNco u.toNat s t ∧ KeptDmem s t ∧ Completed s t ∧ t.lastCount = s.lastCount) ∧
      ((s.ncoAt u.toNat).cfg = true →
        (∀ k0 : F64, isFinite k0 = true → flt (fneg (s.ncoAt u.toNat).fs) k0 = true →
          flt k0 (s.ncoAt u.toNat).fs = true →
            ∃ t, exec (.ncoFreq u k0) s = .next t ∧
              t.ncoAt u.toNat =
                { s.ncoAt u.toNat with inc := fdiv (fmul Config.twoPi k0) (s.ncoAt u.toNat).fs } ∧
              OnlyNco u.toNat s t ∧ KeptDmem s t ∧ Completed s t ∧ t.lastCount = s.lastCount) ∧
          ∀ a d n : Word, LegalCpxs a n.toNat → LegalCpxs d n.toNat →
            ∃ t, exec (.ncoMix u a d n) s = .next t ∧
              (let o := s.ncoAt u.toNat
               let phase := fun k => (List.range k).foldl (fun φ _ => advancePhase φ o.inc) o.phase
               (∀ k < n.toNat, rdC t.dmem (d.toNat + 16 * k) =
                 cmul (rdC s.dmem (a.toNat + 16 * k)) ⟨cos (phase k), sin (phase k)⟩) ∧
                 t.ncoAt u.toNat = { o with phase := phase n.toNat }) ∧
              KeptOutside s t d.toNat (16 * n.toNat) ∧ OnlyNco u.toNat s t ∧ Completed s t ∧
              t.lastCount = s.lastCount)

/-- R72, R421: with an increment of at most `TWO_PI` in magnitude a phase in `[0, TWO_PI]` stays there, sample after
sample. (R420: an increment is that small "up to rounding"; where `TWO_PI * f` overflows it is not.) -/
def Obligations.NcoPhaseStaysInRange : Prop :=
  ∀ inc phase : F64, fle (fneg Config.twoPi) inc = true → fle inc Config.twoPi = true →
    fle fZero phase = true → fle phase Config.twoPi = true →
      (fle fZero (advancePhase phase inc) = true ∧ fle (advancePhase phase inc) Config.twoPi = true) ∧
        ∀ xs : List Cpx,
          fle fZero (mixRun inc phase xs).1 = true ∧ fle (mixRun inc phase xs).1 Config.twoPi = true

/-! ## Streams -/

/-- R74: a stream given to an instance in two calls leaves the state, and gives the outputs, of one call: delay-line
pushes, time-domain FIR, IIR, Goertzel and NCO. Where samples are NaN the equality of the outputs rests on log 6, the
model's choice (93 item I2 allows any NaN). -/
def Obligations.StreamsContinueAcrossCalls : Prop :=
  ∀ x y : List Cpx,
    (∀ (l : DelayLine) (taps : List F64),
      tdRun taps l (x ++ y) =
        ((tdRun taps (tdRun taps l x).1 y).1, (tdRun taps l x).2 ++ (tdRun taps (tdRun taps l x).1 y).2) ∧
        (tdRun taps l x).1 = x.foldl newSample l) ∧
      (∀ g : Iir, iirRun g (x ++ y) = ((iirRun (iirRun g x).1 y).1, (iirRun g x).2 ++ (iirRun (iirRun g x).1 y).2)) ∧
        (∀ g : Goertzel,
          gzRun g (x ++ y) = ((gzRun (gzRun g x).1 y).1, (gzRun g x).2 ++ (gzRun (gzRun g x).1 y).2)) ∧
          ∀ inc phase : F64,
            mixRun inc phase (x ++ y) =
              ((mixRun inc (mixRun inc phase x).1 y).1,
                (mixRun inc phase x).2 ++ (mixRun inc (mixRun inc phase x).1 y).2)
end

