-- ==== Sys2Proof/Laws/Memory.lean ====
section
/-! SUPPORT. Laws of DMEM: a read after a write, what a write leaves alone, and that every memory operation keeps the
canonical form and the address range. They stand on the canonical form, the premise `m.wf = true`. -/

namespace Sys2Proof.Machine

/-! ## The canonical form -/

theorem wfFrom_mono {lo lo' : Nat} {m : Memory} (hle : lo' ≤ lo) (h : Memory.wfFrom lo m = true) :
    Memory.wfFrom lo' m = true := by
  cases m with
  | nil => rfl
  | cons c rest =>
    obtain ⟨k, v⟩ := c
    simp only [Memory.wfFrom, Bool.and_eq_true, decide_eq_true_eq] at h ⊢
    exact ⟨⟨by omega, h.1.2⟩, h.2⟩

theorem readByte_below {lo a : Nat} {m : Memory} (h : Memory.wfFrom lo m = true) (ha : a < lo) :
    readByte m a = Memory.unlisted := by
  cases m with
  | nil => rfl
  | cons c rest =>
    obtain ⟨k, v⟩ := c
    simp only [Memory.wfFrom, Bool.and_eq_true, decide_eq_true_eq] at h
    simp [readByte, show a < k by omega]

theorem wfFrom_writeByte {lo a : Nat} {b : Byte} {m : Memory} (h : Memory.wfFrom lo m = true) (ha : lo ≤ a) :
    Memory.wfFrom lo (writeByte m a b) = true := by
  induction m generalizing lo with
  | nil =>
    simp only [writeByte]
    split
    · rfl
    · simp_all [Memory.wfFrom]
  | cons c rest ih =>
    obtain ⟨k, v⟩ := c
    have h' := h
    simp only [Memory.wfFrom, Bool.and_eq_true, decide_eq_true_eq] at h
    simp only [writeByte]
    split
    · split
      · exact h'
      · rename_i hak hb
        simp only [Memory.wfFrom, Bool.and_eq_true, decide_eq_true_eq, bne_iff_ne, ne_eq]
        exact ⟨⟨ha, hb⟩, ⟨by omega, by simpa using h.1.2⟩, h.2⟩
    · split
      · split
        · exact wfFrom_mono (by omega) h.2
        · rename_i hak hb
          simp only [Memory.wfFrom, Bool.and_eq_true, decide_eq_true_eq, bne_iff_ne, ne_eq]
          subst hak
          exact ⟨⟨ha, hb⟩, h.2⟩
      · simp only [Memory.wfFrom, Bool.and_eq_true, decide_eq_true_eq]
        exact ⟨⟨h.1.1, h.1.2⟩, ih h.2 (by omega)⟩

theorem readByte_writeByte_from {lo a x : Nat} {b : Byte} {m : Memory} (h : Memory.wfFrom lo m = true) :
    readByte (writeByte m a b) x = if x = a then b else readByte m x := by
  induction m generalizing lo with
  | nil =>
    simp only [writeByte]
    split
    · rename_i hb
      subst hb
      split <;> rfl
    · simp only [readByte]
      split
      · rw [if_neg (by omega)]
      · rfl
  | cons c rest ih =>
    obtain ⟨k, v⟩ := c
    simp only [Memory.wfFrom, Bool.and_eq_true, decide_eq_true_eq] at h
    simp only [writeByte]
    by_cases hak : a < k
    · rw [if_pos hak]
      by_cases hb : b = Memory.unlisted
      · rw [if_pos hb]
        by_cases hx : x = a
        · simp [readByte, hx, hak, hb]
        · simp [hx]
      · rw [if_neg hb]
        simp only [readByte]
        by_cases hx : x = a
        · simp [hx]
        · by_cases hxa : x < a
          · simp [hx, hxa, show x < k by omega]
          · simp [hx, hxa]
    · rw [if_neg hak]
      by_cases hk : a = k
      · subst hk
        rw [if_pos rfl]
        by_cases hb : b = Memory.unlisted
        · rw [if_pos hb]
          by_cases hx : x = a
          · subst hx
            simp only [if_true]
            rw [readByte_below h.2 (by omega), hb]
          · simp only [readByte, hx, if_false]
            by_cases hxa : x < a
            · rw [if_pos hxa, readByte_below h.2 (by omega)]
            · rw [if_neg hxa]
        · rw [if_neg hb]
          by_cases hx : x = a
          · simp [readByte, hx]
          · simp [readByte, hx]
      · rw [if_neg hk]
        simp only [readByte]
        by_cases hxk : x < k
        · simp [hxk, show x ≠ a by omega]
        · simp only [hxk, if_false]
          by_cases hxk' : x = k
          · simp [hxk', show k ≠ a by omega]
          · simp only [hxk', if_false]
            exact ih h.2

/-! ## Single bytes -/

/-- A write to a byte and every read after it. -/
theorem readByte_writeByte {m : Memory} (h : m.wf = true) (a x : Nat) (b : Byte) :
    readByte (writeByte m a b) x = if x = a then b else readByte m x :=
  readByte_writeByte_from h

theorem wf_writeByte {m : Memory} (h : m.wf = true) (a : Nat) (b : Byte) : (writeByte m a b).wf = true :=
  wfFrom_writeByte h (Nat.zero_le a)

theorem inDmem_writeByte {m : Memory} (h : m.inDmem = true) {a : Nat} (b : Byte) (ha : a < Config.dmemBytes) :
    (writeByte m a b).inDmem = true := by
  induction m with
  | nil =>
    simp only [writeByte]
    split
    · rfl
    · simp [Memory.inDmem, ha]
  | cons c rest ih =>
    obtain ⟨k, v⟩ := c
    have hr : Memory.inDmem rest = true := by
      simp only [Memory.inDmem, List.all_cons, Bool.and_eq_true] at h ⊢
      exact h.2
    have hk : k < Config.dmemBytes := by
      simp only [Memory.inDmem, List.all_cons, Bool.and_eq_true, decide_eq_true_eq] at h
      exact h.1
    simp only [writeByte]
    split
    · split
      · exact h
      · simp only [Memory.inDmem, List.all_cons, Bool.and_eq_true, decide_eq_true_eq] at h ⊢
        exact ⟨ha, h⟩
    · split
      · split
        · exact hr
        · simp only [Memory.inDmem, List.all_cons, Bool.and_eq_true, decide_eq_true_eq] at hr ⊢
          exact ⟨ha, hr⟩
      · have := ih hr
        simp only [Memory.inDmem, List.all_cons, Bool.and_eq_true, decide_eq_true_eq] at this ⊢
        exact ⟨hk, this⟩

/-- Two memories in canonical form that read the same everywhere are equal. -/
theorem eq_of_readByte {lo : Nat} {m m' : Memory} (h : Memory.wfFrom lo m = true) (h' : Memory.wfFrom lo m' = true)
    (heq : ∀ x, readByte m x = readByte m' x) : m = m' := by
  induction m generalizing m' lo with
  | nil =>
    cases m' with
    | nil => rfl
    | cons c rest =>
      obtain ⟨k, v⟩ := c
      simp only [Memory.wfFrom, Bool.and_eq_true, decide_eq_true_eq, bne_iff_ne, ne_eq] at h'
      have := heq k
      simp [readByte] at this
      exact absurd this.symm h'.1.2
  | cons c rest ih =>
    obtain ⟨k, v⟩ := c
    simp only [Memory.wfFrom, Bool.and_eq_true, decide_eq_true_eq, bne_iff_ne, ne_eq] at h
    cases m' with
    | nil =>
      have := heq k
      simp [readByte] at this
      exact absurd this h.1.2
    | cons c' rest' =>
      obtain ⟨k', v'⟩ := c'
      simp only [Memory.wfFrom, Bool.and_eq_true, decide_eq_true_eq, bne_iff_ne, ne_eq] at h'
      have hkk : k = k' := by
        have e1 := heq k
        have e2 := heq k'
        simp only [readByte] at e1 e2
        by_cases c1 : k < k'
        · simp [c1] at e1
          exact absurd e1 h.1.2
        · by_cases c2 : k' < k
          · simp [c2] at e2
            exact absurd e2.symm h'.1.2
          · omega
      subst hkk
      have hv : v = v' := by simpa [readByte] using heq k
      subst hv
      have : rest = rest' := by
        apply ih h.2 h'.2
        intro x
        by_cases hx : x < k + 1
        · rw [readByte_below h.2 hx, readByte_below h'.2 hx]
        · have := heq x
          simpa [readByte, show ¬ x < k by omega, show x ≠ k by omega] using this
      rw [this]

/-! ## Byte strings -/

theorem wf_writeBytes {m : Memory} (h : m.wf = true) (a : Nat) (bs : List Byte) : (writeBytes m a bs).wf = true := by
  induction bs generalizing m a with
  | nil => exact h
  | cons b bs ih => exact ih (wf_writeByte h a b) (a + 1)

theorem inDmem_writeBytes {m : Memory} (h : m.inDmem = true) {a : Nat} {bs : List Byte}
    (ha : bs = [] ∨ a + bs.length ≤ Config.dmemBytes) : (writeBytes m a bs).inDmem = true := by
  induction bs generalizing m a with
  | nil => exact h
  | cons b bs ih =>
    have hl : a + bs.length + 1 ≤ Config.dmemBytes := by
      rcases ha with ha | ha
      · cases ha
      · simpa [Nat.add_assoc] using ha
    exact ih (inDmem_writeByte h b (by omega)) (Or.inr (by omega))

/-- A string of bytes and every read after it: the string where it stands, the old contents elsewhere. -/
theorem readByte_writeBytes {m : Memory} (h : m.wf = true) (a : Nat) (bs : List Byte) (x : Nat) :
    readByte (writeBytes m a bs) x = if a ≤ x then (bs[x - a]?).getD (readByte m x) else readByte m x := by
  induction bs generalizing m a with
  | nil => simp [writeBytes]
  | cons b bs ih =>
    rw [writeBytes, ih (wf_writeByte h a b), readByte_writeByte h]
    by_cases hx : x = a
    · subst hx
      simp
    · by_cases hle : a ≤ x
      · have h1 : a + 1 ≤ x := by omega
        have h2 : x - a = (x - (a + 1)) + 1 := by omega
        simp [hle, h1, hx, h2]
      · simp [hle, show ¬ a + 1 ≤ x by omega, hx]

theorem readByte_writeBytes_outside {m : Memory} (h : m.wf = true) {a x : Nat} {bs : List Byte}
    (hx : x < a ∨ a + bs.length ≤ x) : readByte (writeBytes m a bs) x = readByte m x := by
  rw [readByte_writeBytes h]
  split
  · rw [List.getElem?_eq_none (by omega)]
    rfl
  · rfl

theorem readByte_writeBytes_inside {m : Memory} (h : m.wf = true) {a i : Nat} {bs : List Byte} (hi : i < bs.length) :
    readByte (writeBytes m a bs) (a + i) = bs[i] := by
  rw [readByte_writeBytes h, if_pos (Nat.le_add_right a i)]
  simp [List.getElem?_eq_getElem hi]

/-! ## Little-endian integers -/

theorem bytesLE_length (n v : Nat) : (bytesLE n v).length = n := by
  induction n generalizing v with
  | zero => rfl
  | succ n ih => simp [bytesLE, ih]

/-- A read depends on the bytes it covers. -/
theorem memRead_congr {m m' : Memory} {a n : Nat} (h : ∀ x, a ≤ x → x < a + n → readByte m x = readByte m' x) :
    memRead m a n = memRead m' a n := by
  induction n generalizing a with
  | zero => rfl
  | succ n ih =>
    rw [memRead, memRead, h a (by omega) (by omega), ih fun x h1 h2 => h x (by omega) (by omega)]

theorem memRead_lt (m : Memory) (a n : Nat) : memRead m a n < 256 ^ n := by
  induction n generalizing a with
  | zero => simp [memRead]
  | succ n ih =>
    have h1 := ih (a + 1)
    have h2 := (readByte m a).isLt
    rw [memRead, Nat.pow_succ]
    omega

theorem memRead_bytes {m : Memory} {n a v : Nat}
    (h : ∀ i, i < n → readByte m (a + i) = ((bytesLE n v)[i]?).getD Memory.unlisted) :
    memRead m a n = v % 256 ^ n := by
  induction n generalizing a v with
  | zero => simp [memRead, Nat.mod_one]
  | succ n ih =>
    have h0 := h 0 (by omega)
    simp only [Nat.add_zero, bytesLE, List.getElem?_cons_zero, Option.getD_some] at h0
    have hr : memRead m (a + 1) n = (v / 256) % 256 ^ n := by
      apply ih
      intro i hi
      have := h (i + 1) (by omega)
      simpa [bytesLE, Nat.add_assoc, Nat.add_comm 1 i] using this
    rw [memRead, h0, hr, BitVec.toNat_ofNat]
    rw [show (256 : Nat) ^ (n + 1) = 256 * 256 ^ n by rw [Nat.pow_succ, Nat.mul_comm]]
    rw [Nat.mod_mul]

theorem wf_memWrite {m : Memory} (h : m.wf = true) (a n v : Nat) : (memWrite m a n v).wf = true :=
  wf_writeBytes h a _

theorem inDmem_memWrite {m : Memory} (h : m.inDmem = true) {a n : Nat} (v : Nat) (ha : a + n ≤ Config.dmemBytes) :
    (memWrite m a n v).inDmem = true :=
  inDmem_writeBytes h (Or.inr (by rw [bytesLE_length]; exact ha))

theorem readByte_memWrite_outside {m : Memory} (h : m.wf = true) {a n v x : Nat} (hx : x < a ∨ a + n ≤ x) :
    readByte (memWrite m a n v) x = readByte m x :=
  readByte_writeBytes_outside h (by rw [bytesLE_length]; exact hx)

/-- An integer read back where it was stored. -/
theorem memRead_memWrite {m : Memory} (h : m.wf = true) (a n v : Nat) :
    memRead (memWrite m a n v) a n = v % 256 ^ n := by
  apply memRead_bytes
  intro i hi
  have hi' : i < (bytesLE n v).length := by rw [bytesLE_length]; exact hi
  rw [memWrite, readByte_writeBytes_inside h hi', List.getElem?_eq_getElem hi', Option.getD_some]

/-- An integer read where nothing was stored. -/
theorem memRead_memWrite_disjoint {m : Memory} (h : m.wf = true) {a n v b k : Nat} (hd : b + k ≤ a ∨ a + n ≤ b) :
    memRead (memWrite m a n v) b k = memRead m b k :=
  memRead_congr fun x _ _ => readByte_memWrite_outside h (by omega)

/-! ## Binary64 values, words and complex samples -/

theorem wf_wrR {m : Memory} (h : m.wf = true) (a : Nat) (x : F64) : (wrR m a x).wf = true := wf_memWrite h a 8 _

theorem wf_wrU {m : Memory} (h : m.wf = true) (a v : Nat) : (wrU m a v).wf = true := wf_memWrite h a 4 _

theorem wf_wrC {m : Memory} (h : m.wf = true) (a : Nat) (z : Cpx) : (wrC m a z).wf = true :=
  wf_wrR (wf_wrR h a _) _ _

theorem inDmem_wrR {m : Memory} (h : m.inDmem = true) {a : Nat} (x : F64) (ha : a + 8 ≤ Config.dmemBytes) :
    (wrR m a x).inDmem = true :=
  inDmem_memWrite h _ ha

theorem inDmem_wrU {m : Memory} (h : m.inDmem = true) {a : Nat} (v : Nat) (ha : a + 4 ≤ Config.dmemBytes) :
    (wrU m a v).inDmem = true :=
  inDmem_memWrite h _ ha

theorem inDmem_wrC {m : Memory} (h : m.inDmem = true) {a : Nat} (z : Cpx) (ha : a + 16 ≤ Config.dmemBytes) :
    (wrC m a z).inDmem = true :=
  inDmem_wrR (inDmem_wrR h _ (by omega)) _ (by omega)

theorem rdR_wrR {m : Memory} (h : m.wf = true) (a : Nat) (x : F64) : rdR (wrR m a x) a = x := by
  have hx : x.toNat % 256 ^ 8 = x.toNat := Nat.mod_eq_of_lt (by have := x.isLt; omega)
  rw [rdR, wrR, memRead_memWrite h, hx, BitVec.ofNat_toNat, BitVec.setWidth_eq]

theorem rdR_wrR_disjoint {m : Memory} (h : m.wf = true) {a b : Nat} (x : F64) (hd : b + 8 ≤ a ∨ a + 8 ≤ b) :
    rdR (wrR m a x) b = rdR m b := by
  rw [rdR, wrR, memRead_memWrite_disjoint h hd, rdR]

theorem rdR_congr {m m' : Memory} {a : Nat} (h : ∀ x, a ≤ x → x < a + 8 → readByte m x = readByte m' x) :
    rdR m a = rdR m' a := by
  rw [rdR, rdR, memRead_congr h]

theorem rdC_congr {m m' : Memory} {a : Nat} (h : ∀ x, a ≤ x → x < a + 16 → readByte m x = readByte m' x) :
    rdC m a = rdC m' a := by
  rw [rdC, rdC, rdR_congr fun x h1 h2 => h x h1 (by omega), rdR_congr fun x h1 h2 => h x (by omega) (by omega)]

theorem readByte_wrR_outside {m : Memory} (h : m.wf = true) {a x : Nat} {v : F64} (hx : x < a ∨ a + 8 ≤ x) :
    readByte (wrR m a v) x = readByte m x :=
  readByte_memWrite_outside h hx

theorem readByte_wrU_outside {m : Memory} (h : m.wf = true) {a x v : Nat} (hx : x < a ∨ a + 4 ≤ x) :
    readByte (wrU m a v) x = readByte m x :=
  readByte_memWrite_outside h hx

theorem readByte_wrC_outside {m : Memory} (h : m.wf = true) {a x : Nat} {z : Cpx} (hx : x < a ∨ a + 16 ≤ x) :
    readByte (wrC m a z) x = readByte m x := by
  rw [wrC, readByte_wrR_outside (wf_wrR h _ _) (by omega), readByte_wrR_outside h (by omega)]

theorem rdC_wrC {m : Memory} (h : m.wf = true) (a : Nat) (z : Cpx) : rdC (wrC m a z) a = z := by
  have h1 : rdR (wrC m a z) a = z.re := by
    rw [wrC, rdR_wrR_disjoint (wf_wrR h _ _) _ (by omega), rdR_wrR h]
  have h2 : rdR (wrC m a z) (a + 8) = z.im := by rw [wrC, rdR_wrR (wf_wrR h _ _)]
  rw [rdC, h1, h2]

theorem memRead_wrU {m : Memory} (h : m.wf = true) (a v : Nat) : memRead (wrU m a v) a 4 = v % 2 ^ 32 :=
  memRead_memWrite h a 4 v

/-! ## Arrays -/

theorem wf_writeCpxs {m : Memory} (h : m.wf = true) (d : Nat) (zs : List Cpx) : (writeCpxs m d zs).wf = true := by
  induction zs generalizing m d with
  | nil => exact h
  | cons z zs ih => exact ih (wf_wrC h d z) (d + 16)

theorem inDmem_writeCpxs {m : Memory} (h : m.inDmem = true) {d : Nat} {zs : List Cpx}
    (hd : zs = [] ∨ d + 16 * zs.length ≤ Config.dmemBytes) : (writeCpxs m d zs).inDmem = true := by
  induction zs generalizing m d with
  | nil => exact h
  | cons z zs ih =>
    have hl : d + 16 * zs.length + 16 ≤ Config.dmemBytes := by
      rcases hd with hd | hd
      · cases hd
      · simp only [List.length_cons] at hd
        omega
    exact ih (inDmem_wrC h z (by omega)) (Or.inr (by omega))

theorem readByte_writeCpxs_outside {m : Memory} (h : m.wf = true) {d x : Nat} {zs : List Cpx}
    (hx : x < d ∨ d + 16 * zs.length ≤ x) : readByte (writeCpxs m d zs) x = readByte m x := by
  induction zs generalizing m d with
  | nil => rfl
  | cons z zs ih =>
    simp only [List.length_cons] at hx
    rw [writeCpxs, ih (wf_wrC h d z) (by omega), readByte_wrC_outside h (by omega)]

/-- The elements of a stored CPX array. -/
theorem rdC_writeCpxs {m : Memory} (h : m.wf = true) (d : Nat) (zs : List Cpx) {i : Nat} (hi : i < zs.length) :
    rdC (writeCpxs m d zs) (d + 16 * i) = zs[i] := by
  induction zs generalizing m d i with
  | nil => simp at hi
  | cons z zs ih =>
    rw [writeCpxs]
    cases i with
    | zero =>
      have : rdC (writeCpxs (wrC m d z) (d + 16) zs) d = rdC (wrC m d z) d :=
        rdC_congr fun x h1 h2 => readByte_writeCpxs_outside (wf_wrC h d z) (by omega)
      simp only [Nat.mul_zero, Nat.add_zero, List.getElem_cons_zero]
      rw [this, rdC_wrC h]
    | succ i =>
      simp only [List.getElem_cons_succ]
      rw [show d + 16 * (i + 1) = d + 16 + 16 * i by omega]
      exact ih (wf_wrC h d z) (d + 16) (by simpa using hi)

theorem wf_writeReals {m : Memory} (h : m.wf = true) (d : Nat) (xs : List F64) : (writeReals m d xs).wf = true := by
  induction xs generalizing m d with
  | nil => exact h
  | cons x xs ih => exact ih (wf_wrR h d x) (d + 8)

theorem inDmem_writeReals {m : Memory} (h : m.inDmem = true) {d : Nat} {xs : List F64}
    (hd : xs = [] ∨ d + 8 * xs.length ≤ Config.dmemBytes) : (writeReals m d xs).inDmem = true := by
  induction xs generalizing m d with
  | nil => exact h
  | cons x xs ih =>
    have hl : d + 8 * xs.length + 8 ≤ Config.dmemBytes := by
      rcases hd with hd | hd
      · cases hd
      · simp only [List.length_cons] at hd
        omega
    exact ih (inDmem_wrR h x (by omega)) (Or.inr (by omega))

theorem readByte_writeReals_outside {m : Memory} (h : m.wf = true) {d x : Nat} {xs : List F64}
    (hx : x < d ∨ d + 8 * xs.length ≤ x) : readByte (writeReals m d xs) x = readByte m x := by
  induction xs generalizing m d with
  | nil => rfl
  | cons y xs ih =>
    simp only [List.length_cons] at hx
    rw [writeReals, ih (wf_wrR h d y) (by omega), readByte_wrR_outside h (by omega)]

/-- The elements of a stored real array. -/
theorem rdR_writeReals {m : Memory} (h : m.wf = true) (d : Nat) (xs : List F64) {i : Nat} (hi : i < xs.length) :
    rdR (writeReals m d xs) (d + 8 * i) = xs[i] := by
  induction xs generalizing m d i with
  | nil => simp at hi
  | cons y xs ih =>
    rw [writeReals]
    cases i with
    | zero =>
      have : rdR (writeReals (wrR m d y) (d + 8) xs) d = rdR (wrR m d y) d :=
        rdR_congr fun x h1 h2 => readByte_writeReals_outside (wf_wrR h d y) (by omega)
      simp only [Nat.mul_zero, Nat.add_zero, List.getElem_cons_zero]
      rw [this, rdR_wrR h]
    | succ i =>
      simp only [List.getElem_cons_succ]
      rw [show d + 8 * (i + 1) = d + 8 + 8 * i by omega]
      exact ih (wf_wrR h d y) (d + 8) (by simpa using hi)

@[simp] theorem readCpxs_length (m : Memory) (a n : Nat) : (readCpxs m a n).length = n := by simp [readCpxs]

@[simp] theorem readReals_length (m : Memory) (a n : Nat) : (readReals m a n).length = n := by simp [readReals]

@[simp] theorem readCpxs_getElem (m : Memory) (a n i : Nat) (hi : i < (readCpxs m a n).length) :
    (readCpxs m a n)[i] = rdC m (a + 16 * i) := by
  simp [readCpxs]

@[simp] theorem readReals_getElem (m : Memory) (a n i : Nat) (hi : i < (readReals m a n).length) :
    (readReals m a n)[i] = rdR m (a + 8 * i) := by
  simp [readReals]

/-! ## A memory made from a list of bytes -/

theorem ofCells_fold (m : Memory) (cells : List Host.Cell) (hw : m.wf = true) (hi : m.inDmem = true)
    (hc : ∀ c ∈ cells, c.1 < Config.dmemBytes) :
    (cells.foldl (fun m c => writeByte m c.1 c.2) m).wf = true ∧
      Memory.inDmem (cells.foldl (fun m c => writeByte m c.1 c.2) m) = true := by
  induction cells generalizing m with
  | nil => exact ⟨hw, hi⟩
  | cons c cells ih =>
    exact ih _ (wf_writeByte hw c.1 c.2) (inDmem_writeByte hi c.2 (hc c List.mem_cons_self))
      fun c' h' => hc c' (List.mem_cons_of_mem _ h')

theorem ofCells_ok (cells : List Host.Cell) :
    (Memory.ofCells cells).wf = true ∧ (Memory.ofCells cells).inDmem = true := by
  apply ofCells_fold [] _ rfl rfl
  intro c hc
  simpa using (List.mem_filter.mp hc).2

/-- The memory after reset has the canonical form. -/
theorem reset_memory_ok : State.reset.dmem.wf = true ∧ State.reset.dmem.inDmem = true := ⟨rfl, rfl⟩

end Sys2Proof.Machine
end

