-- ==== Sys2Proof/Laws/State.lean ====
section
/-! SUPPORT. One lemma per field per update of the state, so that no proof unfolds a record update, and the unit banks
read after a write to an instance. -/

namespace Sys2Proof.Machine

/-! ## setDmem -/

@[simp] theorem setDmem_status (s : State) (m : Memory) : (s.setDmem m).status = s.status := rfl
@[simp] theorem setDmem_cp (s : State) (m : Memory) : (s.setDmem m).cp = s.cp := rfl
@[simp] theorem setDmem_lc (s : State) (m : Memory) : (s.setDmem m).lc = s.lc := rfl
@[simp] theorem setDmem_cause (s : State) (m : Memory) : (s.setDmem m).cause = s.cause := rfl
@[simp] theorem setDmem_faultCp (s : State) (m : Memory) : (s.setDmem m).faultCp = s.faultCp := rfl
@[simp] theorem setDmem_faultInfo (s : State) (m : Memory) : (s.setDmem m).faultInfo = s.faultInfo := rfl
@[simp] theorem setDmem_lastCount (s : State) (m : Memory) : (s.setDmem m).lastCount = s.lastCount := rfl
@[simp] theorem setDmem_irqEn (s : State) (m : Memory) : (s.setDmem m).irqEn = s.irqEn := rfl
@[simp] theorem setDmem_irqPend (s : State) (m : Memory) : (s.setDmem m).irqPend = s.irqPend := rfl
@[simp] theorem setDmem_retired (s : State) (m : Memory) : (s.setDmem m).retired = s.retired := rfl
@[simp] theorem setDmem_abortReq (s : State) (m : Memory) : (s.setDmem m).abortReq = s.abortReq := rfl
@[simp] theorem setDmem_sresetReq (s : State) (m : Memory) : (s.setDmem m).sresetReq = s.sresetReq := rfl
@[simp] theorem setDmem_dl (s : State) (m : Memory) : (s.setDmem m).dl = s.dl := rfl
@[simp] theorem setDmem_hb (s : State) (m : Memory) : (s.setDmem m).hb = s.hb := rfl
@[simp] theorem setDmem_ch (s : State) (m : Memory) : (s.setDmem m).ch = s.ch := rfl
@[simp] theorem setDmem_fir (s : State) (m : Memory) : (s.setDmem m).fir = s.fir := rfl
@[simp] theorem setDmem_iir (s : State) (m : Memory) : (s.setDmem m).iir = s.iir := rfl
@[simp] theorem setDmem_gz (s : State) (m : Memory) : (s.setDmem m).gz = s.gz := rfl
@[simp] theorem setDmem_nco (s : State) (m : Memory) : (s.setDmem m).nco = s.nco := rfl
@[simp] theorem setDmem_dmem (s : State) (m : Memory) : (s.setDmem m).dmem = m := rfl
@[simp] theorem setDmem_inputs (s : State) (m : Memory) : (s.setDmem m).inputs = s.inputs := rfl
@[simp] theorem setDmem_response (s : State) (m : Memory) : (s.setDmem m).response = s.response := rfl

/-! ## setCount -/

@[simp] theorem setCount_status (s : State) (q : Nat) : (s.setCount q).status = s.status := rfl
@[simp] theorem setCount_cp (s : State) (q : Nat) : (s.setCount q).cp = s.cp := rfl
@[simp] theorem setCount_lc (s : State) (q : Nat) : (s.setCount q).lc = s.lc := rfl
@[simp] theorem setCount_cause (s : State) (q : Nat) : (s.setCount q).cause = s.cause := rfl
@[simp] theorem setCount_faultCp (s : State) (q : Nat) : (s.setCount q).faultCp = s.faultCp := rfl
@[simp] theorem setCount_faultInfo (s : State) (q : Nat) : (s.setCount q).faultInfo = s.faultInfo := rfl
@[simp] theorem setCount_lastCount (s : State) (q : Nat) : (s.setCount q).lastCount = BitVec.ofNat 32 q := rfl
@[simp] theorem setCount_irqEn (s : State) (q : Nat) : (s.setCount q).irqEn = s.irqEn := rfl
@[simp] theorem setCount_irqPend (s : State) (q : Nat) : (s.setCount q).irqPend = s.irqPend := rfl
@[simp] theorem setCount_retired (s : State) (q : Nat) : (s.setCount q).retired = s.retired := rfl
@[simp] theorem setCount_abortReq (s : State) (q : Nat) : (s.setCount q).abortReq = s.abortReq := rfl
@[simp] theorem setCount_sresetReq (s : State) (q : Nat) : (s.setCount q).sresetReq = s.sresetReq := rfl
@[simp] theorem setCount_dl (s : State) (q : Nat) : (s.setCount q).dl = s.dl := rfl
@[simp] theorem setCount_hb (s : State) (q : Nat) : (s.setCount q).hb = s.hb := rfl
@[simp] theorem setCount_ch (s : State) (q : Nat) : (s.setCount q).ch = s.ch := rfl
@[simp] theorem setCount_fir (s : State) (q : Nat) : (s.setCount q).fir = s.fir := rfl
@[simp] theorem setCount_iir (s : State) (q : Nat) : (s.setCount q).iir = s.iir := rfl
@[simp] theorem setCount_gz (s : State) (q : Nat) : (s.setCount q).gz = s.gz := rfl
@[simp] theorem setCount_nco (s : State) (q : Nat) : (s.setCount q).nco = s.nco := rfl
@[simp] theorem setCount_dmem (s : State) (q : Nat) : (s.setCount q).dmem = s.dmem := rfl
@[simp] theorem setCount_inputs (s : State) (q : Nat) : (s.setCount q).inputs = s.inputs := rfl
@[simp] theorem setCount_response (s : State) (q : Nat) : (s.setCount q).response = s.response := rfl

/-! ## setDl -/

@[simp] theorem setDl_status (s : State) (i : Nat) (l : DelayLine) : (s.setDl i l).status = s.status := rfl
@[simp] theorem setDl_cp (s : State) (i : Nat) (l : DelayLine) : (s.setDl i l).cp = s.cp := rfl
@[simp] theorem setDl_lc (s : State) (i : Nat) (l : DelayLine) : (s.setDl i l).lc = s.lc := rfl
@[simp] theorem setDl_cause (s : State) (i : Nat) (l : DelayLine) : (s.setDl i l).cause = s.cause := rfl
@[simp] theorem setDl_faultCp (s : State) (i : Nat) (l : DelayLine) : (s.setDl i l).faultCp = s.faultCp := rfl
@[simp] theorem setDl_faultInfo (s : State) (i : Nat) (l : DelayLine) : (s.setDl i l).faultInfo = s.faultInfo := rfl
@[simp] theorem setDl_lastCount (s : State) (i : Nat) (l : DelayLine) : (s.setDl i l).lastCount = s.lastCount := rfl
@[simp] theorem setDl_irqEn (s : State) (i : Nat) (l : DelayLine) : (s.setDl i l).irqEn = s.irqEn := rfl
@[simp] theorem setDl_irqPend (s : State) (i : Nat) (l : DelayLine) : (s.setDl i l).irqPend = s.irqPend := rfl
@[simp] theorem setDl_retired (s : State) (i : Nat) (l : DelayLine) : (s.setDl i l).retired = s.retired := rfl
@[simp] theorem setDl_abortReq (s : State) (i : Nat) (l : DelayLine) : (s.setDl i l).abortReq = s.abortReq := rfl
@[simp] theorem setDl_sresetReq (s : State) (i : Nat) (l : DelayLine) : (s.setDl i l).sresetReq = s.sresetReq := rfl
@[simp] theorem setDl_dl (s : State) (i : Nat) (l : DelayLine) : (s.setDl i l).dl = s.dl.setIfInBounds i l := rfl
@[simp] theorem setDl_hb (s : State) (i : Nat) (l : DelayLine) : (s.setDl i l).hb = s.hb := rfl
@[simp] theorem setDl_ch (s : State) (i : Nat) (l : DelayLine) : (s.setDl i l).ch = s.ch := rfl
@[simp] theorem setDl_fir (s : State) (i : Nat) (l : DelayLine) : (s.setDl i l).fir = s.fir := rfl
@[simp] theorem setDl_iir (s : State) (i : Nat) (l : DelayLine) : (s.setDl i l).iir = s.iir := rfl
@[simp] theorem setDl_gz (s : State) (i : Nat) (l : DelayLine) : (s.setDl i l).gz = s.gz := rfl
@[simp] theorem setDl_nco (s : State) (i : Nat) (l : DelayLine) : (s.setDl i l).nco = s.nco := rfl
@[simp] theorem setDl_dmem (s : State) (i : Nat) (l : DelayLine) : (s.setDl i l).dmem = s.dmem := rfl
@[simp] theorem setDl_inputs (s : State) (i : Nat) (l : DelayLine) : (s.setDl i l).inputs = s.inputs := rfl
@[simp] theorem setDl_response (s : State) (i : Nat) (l : DelayLine) : (s.setDl i l).response = s.response := rfl

/-! ## setHb -/

@[simp] theorem setHb_status (s : State) (i : Nat) (h : Halfband) : (s.setHb i h).status = s.status := rfl
@[simp] theorem setHb_cp (s : State) (i : Nat) (h : Halfband) : (s.setHb i h).cp = s.cp := rfl
@[simp] theorem setHb_lc (s : State) (i : Nat) (h : Halfband) : (s.setHb i h).lc = s.lc := rfl
@[simp] theorem setHb_cause (s : State) (i : Nat) (h : Halfband) : (s.setHb i h).cause = s.cause := rfl
@[simp] theorem setHb_faultCp (s : State) (i : Nat) (h : Halfband) : (s.setHb i h).faultCp = s.faultCp := rfl
@[simp] theorem setHb_faultInfo (s : State) (i : Nat) (h : Halfband) : (s.setHb i h).faultInfo = s.faultInfo := rfl
@[simp] theorem setHb_lastCount (s : State) (i : Nat) (h : Halfband) : (s.setHb i h).lastCount = s.lastCount := rfl
@[simp] theorem setHb_irqEn (s : State) (i : Nat) (h : Halfband) : (s.setHb i h).irqEn = s.irqEn := rfl
@[simp] theorem setHb_irqPend (s : State) (i : Nat) (h : Halfband) : (s.setHb i h).irqPend = s.irqPend := rfl
@[simp] theorem setHb_retired (s : State) (i : Nat) (h : Halfband) : (s.setHb i h).retired = s.retired := rfl
@[simp] theorem setHb_abortReq (s : State) (i : Nat) (h : Halfband) : (s.setHb i h).abortReq = s.abortReq := rfl
@[simp] theorem setHb_sresetReq (s : State) (i : Nat) (h : Halfband) : (s.setHb i h).sresetReq = s.sresetReq := rfl
@[simp] theorem setHb_dl (s : State) (i : Nat) (h : Halfband) : (s.setHb i h).dl = s.dl := rfl
@[simp] theorem setHb_hb (s : State) (i : Nat) (h : Halfband) : (s.setHb i h).hb = s.hb.setIfInBounds i h := rfl
@[simp] theorem setHb_ch (s : State) (i : Nat) (h : Halfband) : (s.setHb i h).ch = s.ch := rfl
@[simp] theorem setHb_fir (s : State) (i : Nat) (h : Halfband) : (s.setHb i h).fir = s.fir := rfl
@[simp] theorem setHb_iir (s : State) (i : Nat) (h : Halfband) : (s.setHb i h).iir = s.iir := rfl
@[simp] theorem setHb_gz (s : State) (i : Nat) (h : Halfband) : (s.setHb i h).gz = s.gz := rfl
@[simp] theorem setHb_nco (s : State) (i : Nat) (h : Halfband) : (s.setHb i h).nco = s.nco := rfl
@[simp] theorem setHb_dmem (s : State) (i : Nat) (h : Halfband) : (s.setHb i h).dmem = s.dmem := rfl
@[simp] theorem setHb_inputs (s : State) (i : Nat) (h : Halfband) : (s.setHb i h).inputs = s.inputs := rfl
@[simp] theorem setHb_response (s : State) (i : Nat) (h : Halfband) : (s.setHb i h).response = s.response := rfl

/-! ## setCh -/

@[simp] theorem setCh_status (s : State) (i : Nat) (c : Chain) : (s.setCh i c).status = s.status := rfl
@[simp] theorem setCh_cp (s : State) (i : Nat) (c : Chain) : (s.setCh i c).cp = s.cp := rfl
@[simp] theorem setCh_lc (s : State) (i : Nat) (c : Chain) : (s.setCh i c).lc = s.lc := rfl
@[simp] theorem setCh_cause (s : State) (i : Nat) (c : Chain) : (s.setCh i c).cause = s.cause := rfl
@[simp] theorem setCh_faultCp (s : State) (i : Nat) (c : Chain) : (s.setCh i c).faultCp = s.faultCp := rfl
@[simp] theorem setCh_faultInfo (s : State) (i : Nat) (c : Chain) : (s.setCh i c).faultInfo = s.faultInfo := rfl
@[simp] theorem setCh_lastCount (s : State) (i : Nat) (c : Chain) : (s.setCh i c).lastCount = s.lastCount := rfl
@[simp] theorem setCh_irqEn (s : State) (i : Nat) (c : Chain) : (s.setCh i c).irqEn = s.irqEn := rfl
@[simp] theorem setCh_irqPend (s : State) (i : Nat) (c : Chain) : (s.setCh i c).irqPend = s.irqPend := rfl
@[simp] theorem setCh_retired (s : State) (i : Nat) (c : Chain) : (s.setCh i c).retired = s.retired := rfl
@[simp] theorem setCh_abortReq (s : State) (i : Nat) (c : Chain) : (s.setCh i c).abortReq = s.abortReq := rfl
@[simp] theorem setCh_sresetReq (s : State) (i : Nat) (c : Chain) : (s.setCh i c).sresetReq = s.sresetReq := rfl
@[simp] theorem setCh_dl (s : State) (i : Nat) (c : Chain) : (s.setCh i c).dl = s.dl := rfl
@[simp] theorem setCh_hb (s : State) (i : Nat) (c : Chain) : (s.setCh i c).hb = s.hb := rfl
@[simp] theorem setCh_ch (s : State) (i : Nat) (c : Chain) : (s.setCh i c).ch = s.ch.setIfInBounds i c := rfl
@[simp] theorem setCh_fir (s : State) (i : Nat) (c : Chain) : (s.setCh i c).fir = s.fir := rfl
@[simp] theorem setCh_iir (s : State) (i : Nat) (c : Chain) : (s.setCh i c).iir = s.iir := rfl
@[simp] theorem setCh_gz (s : State) (i : Nat) (c : Chain) : (s.setCh i c).gz = s.gz := rfl
@[simp] theorem setCh_nco (s : State) (i : Nat) (c : Chain) : (s.setCh i c).nco = s.nco := rfl
@[simp] theorem setCh_dmem (s : State) (i : Nat) (c : Chain) : (s.setCh i c).dmem = s.dmem := rfl
@[simp] theorem setCh_inputs (s : State) (i : Nat) (c : Chain) : (s.setCh i c).inputs = s.inputs := rfl
@[simp] theorem setCh_response (s : State) (i : Nat) (c : Chain) : (s.setCh i c).response = s.response := rfl

/-! ## setFir -/

@[simp] theorem setFir_status (s : State) (i : Nat) (f : Fir) : (s.setFir i f).status = s.status := rfl
@[simp] theorem setFir_cp (s : State) (i : Nat) (f : Fir) : (s.setFir i f).cp = s.cp := rfl
@[simp] theorem setFir_lc (s : State) (i : Nat) (f : Fir) : (s.setFir i f).lc = s.lc := rfl
@[simp] theorem setFir_cause (s : State) (i : Nat) (f : Fir) : (s.setFir i f).cause = s.cause := rfl
@[simp] theorem setFir_faultCp (s : State) (i : Nat) (f : Fir) : (s.setFir i f).faultCp = s.faultCp := rfl
@[simp] theorem setFir_faultInfo (s : State) (i : Nat) (f : Fir) : (s.setFir i f).faultInfo = s.faultInfo := rfl
@[simp] theorem setFir_lastCount (s : State) (i : Nat) (f : Fir) : (s.setFir i f).lastCount = s.lastCount := rfl
@[simp] theorem setFir_irqEn (s : State) (i : Nat) (f : Fir) : (s.setFir i f).irqEn = s.irqEn := rfl
@[simp] theorem setFir_irqPend (s : State) (i : Nat) (f : Fir) : (s.setFir i f).irqPend = s.irqPend := rfl
@[simp] theorem setFir_retired (s : State) (i : Nat) (f : Fir) : (s.setFir i f).retired = s.retired := rfl
@[simp] theorem setFir_abortReq (s : State) (i : Nat) (f : Fir) : (s.setFir i f).abortReq = s.abortReq := rfl
@[simp] theorem setFir_sresetReq (s : State) (i : Nat) (f : Fir) : (s.setFir i f).sresetReq = s.sresetReq := rfl
@[simp] theorem setFir_dl (s : State) (i : Nat) (f : Fir) : (s.setFir i f).dl = s.dl := rfl
@[simp] theorem setFir_hb (s : State) (i : Nat) (f : Fir) : (s.setFir i f).hb = s.hb := rfl
@[simp] theorem setFir_ch (s : State) (i : Nat) (f : Fir) : (s.setFir i f).ch = s.ch := rfl
@[simp] theorem setFir_fir (s : State) (i : Nat) (f : Fir) : (s.setFir i f).fir = s.fir.setIfInBounds i f := rfl
@[simp] theorem setFir_iir (s : State) (i : Nat) (f : Fir) : (s.setFir i f).iir = s.iir := rfl
@[simp] theorem setFir_gz (s : State) (i : Nat) (f : Fir) : (s.setFir i f).gz = s.gz := rfl
@[simp] theorem setFir_nco (s : State) (i : Nat) (f : Fir) : (s.setFir i f).nco = s.nco := rfl
@[simp] theorem setFir_dmem (s : State) (i : Nat) (f : Fir) : (s.setFir i f).dmem = s.dmem := rfl
@[simp] theorem setFir_inputs (s : State) (i : Nat) (f : Fir) : (s.setFir i f).inputs = s.inputs := rfl
@[simp] theorem setFir_response (s : State) (i : Nat) (f : Fir) : (s.setFir i f).response = s.response := rfl

/-! ## setIir -/

@[simp] theorem setIir_status (s : State) (i : Nat) (g : Iir) : (s.setIir i g).status = s.status := rfl
@[simp] theorem setIir_cp (s : State) (i : Nat) (g : Iir) : (s.setIir i g).cp = s.cp := rfl
@[simp] theorem setIir_lc (s : State) (i : Nat) (g : Iir) : (s.setIir i g).lc = s.lc := rfl
@[simp] theorem setIir_cause (s : State) (i : Nat) (g : Iir) : (s.setIir i g).cause = s.cause := rfl
@[simp] theorem setIir_faultCp (s : State) (i : Nat) (g : Iir) : (s.setIir i g).faultCp = s.faultCp := rfl
@[simp] theorem setIir_faultInfo (s : State) (i : Nat) (g : Iir) : (s.setIir i g).faultInfo = s.faultInfo := rfl
@[simp] theorem setIir_lastCount (s : State) (i : Nat) (g : Iir) : (s.setIir i g).lastCount = s.lastCount := rfl
@[simp] theorem setIir_irqEn (s : State) (i : Nat) (g : Iir) : (s.setIir i g).irqEn = s.irqEn := rfl
@[simp] theorem setIir_irqPend (s : State) (i : Nat) (g : Iir) : (s.setIir i g).irqPend = s.irqPend := rfl
@[simp] theorem setIir_retired (s : State) (i : Nat) (g : Iir) : (s.setIir i g).retired = s.retired := rfl
@[simp] theorem setIir_abortReq (s : State) (i : Nat) (g : Iir) : (s.setIir i g).abortReq = s.abortReq := rfl
@[simp] theorem setIir_sresetReq (s : State) (i : Nat) (g : Iir) : (s.setIir i g).sresetReq = s.sresetReq := rfl
@[simp] theorem setIir_dl (s : State) (i : Nat) (g : Iir) : (s.setIir i g).dl = s.dl := rfl
@[simp] theorem setIir_hb (s : State) (i : Nat) (g : Iir) : (s.setIir i g).hb = s.hb := rfl
@[simp] theorem setIir_ch (s : State) (i : Nat) (g : Iir) : (s.setIir i g).ch = s.ch := rfl
@[simp] theorem setIir_fir (s : State) (i : Nat) (g : Iir) : (s.setIir i g).fir = s.fir := rfl
@[simp] theorem setIir_iir (s : State) (i : Nat) (g : Iir) : (s.setIir i g).iir = s.iir.setIfInBounds i g := rfl
@[simp] theorem setIir_gz (s : State) (i : Nat) (g : Iir) : (s.setIir i g).gz = s.gz := rfl
@[simp] theorem setIir_nco (s : State) (i : Nat) (g : Iir) : (s.setIir i g).nco = s.nco := rfl
@[simp] theorem setIir_dmem (s : State) (i : Nat) (g : Iir) : (s.setIir i g).dmem = s.dmem := rfl
@[simp] theorem setIir_inputs (s : State) (i : Nat) (g : Iir) : (s.setIir i g).inputs = s.inputs := rfl
@[simp] theorem setIir_response (s : State) (i : Nat) (g : Iir) : (s.setIir i g).response = s.response := rfl

/-! ## setGz -/

@[simp] theorem setGz_status (s : State) (i : Nat) (g : Goertzel) : (s.setGz i g).status = s.status := rfl
@[simp] theorem setGz_cp (s : State) (i : Nat) (g : Goertzel) : (s.setGz i g).cp = s.cp := rfl
@[simp] theorem setGz_lc (s : State) (i : Nat) (g : Goertzel) : (s.setGz i g).lc = s.lc := rfl
@[simp] theorem setGz_cause (s : State) (i : Nat) (g : Goertzel) : (s.setGz i g).cause = s.cause := rfl
@[simp] theorem setGz_faultCp (s : State) (i : Nat) (g : Goertzel) : (s.setGz i g).faultCp = s.faultCp := rfl
@[simp] theorem setGz_faultInfo (s : State) (i : Nat) (g : Goertzel) : (s.setGz i g).faultInfo = s.faultInfo := rfl
@[simp] theorem setGz_lastCount (s : State) (i : Nat) (g : Goertzel) : (s.setGz i g).lastCount = s.lastCount := rfl
@[simp] theorem setGz_irqEn (s : State) (i : Nat) (g : Goertzel) : (s.setGz i g).irqEn = s.irqEn := rfl
@[simp] theorem setGz_irqPend (s : State) (i : Nat) (g : Goertzel) : (s.setGz i g).irqPend = s.irqPend := rfl
@[simp] theorem setGz_retired (s : State) (i : Nat) (g : Goertzel) : (s.setGz i g).retired = s.retired := rfl
@[simp] theorem setGz_abortReq (s : State) (i : Nat) (g : Goertzel) : (s.setGz i g).abortReq = s.abortReq := rfl
@[simp] theorem setGz_sresetReq (s : State) (i : Nat) (g : Goertzel) : (s.setGz i g).sresetReq = s.sresetReq := rfl
@[simp] theorem setGz_dl (s : State) (i : Nat) (g : Goertzel) : (s.setGz i g).dl = s.dl := rfl
@[simp] theorem setGz_hb (s : State) (i : Nat) (g : Goertzel) : (s.setGz i g).hb = s.hb := rfl
@[simp] theorem setGz_ch (s : State) (i : Nat) (g : Goertzel) : (s.setGz i g).ch = s.ch := rfl
@[simp] theorem setGz_fir (s : State) (i : Nat) (g : Goertzel) : (s.setGz i g).fir = s.fir := rfl
@[simp] theorem setGz_iir (s : State) (i : Nat) (g : Goertzel) : (s.setGz i g).iir = s.iir := rfl
@[simp] theorem setGz_gz (s : State) (i : Nat) (g : Goertzel) : (s.setGz i g).gz = s.gz.setIfInBounds i g := rfl
@[simp] theorem setGz_nco (s : State) (i : Nat) (g : Goertzel) : (s.setGz i g).nco = s.nco := rfl
@[simp] theorem setGz_dmem (s : State) (i : Nat) (g : Goertzel) : (s.setGz i g).dmem = s.dmem := rfl
@[simp] theorem setGz_inputs (s : State) (i : Nat) (g : Goertzel) : (s.setGz i g).inputs = s.inputs := rfl
@[simp] theorem setGz_response (s : State) (i : Nat) (g : Goertzel) : (s.setGz i g).response = s.response := rfl

/-! ## setNco -/

@[simp] theorem setNco_status (s : State) (i : Nat) (o : Nco) : (s.setNco i o).status = s.status := rfl
@[simp] theorem setNco_cp (s : State) (i : Nat) (o : Nco) : (s.setNco i o).cp = s.cp := rfl
@[simp] theorem setNco_lc (s : State) (i : Nat) (o : Nco) : (s.setNco i o).lc = s.lc := rfl
@[simp] theorem setNco_cause (s : State) (i : Nat) (o : Nco) : (s.setNco i o).cause = s.cause := rfl
@[simp] theorem setNco_faultCp (s : State) (i : Nat) (o : Nco) : (s.setNco i o).faultCp = s.faultCp := rfl
@[simp] theorem setNco_faultInfo (s : State) (i : Nat) (o : Nco) : (s.setNco i o).faultInfo = s.faultInfo := rfl
@[simp] theorem setNco_lastCount (s : State) (i : Nat) (o : Nco) : (s.setNco i o).lastCount = s.lastCount := rfl
@[simp] theorem setNco_irqEn (s : State) (i : Nat) (o : Nco) : (s.setNco i o).irqEn = s.irqEn := rfl
@[simp] theorem setNco_irqPend (s : State) (i : Nat) (o : Nco) : (s.setNco i o).irqPend = s.irqPend := rfl
@[simp] theorem setNco_retired (s : State) (i : Nat) (o : Nco) : (s.setNco i o).retired = s.retired := rfl
@[simp] theorem setNco_abortReq (s : State) (i : Nat) (o : Nco) : (s.setNco i o).abortReq = s.abortReq := rfl
@[simp] theorem setNco_sresetReq (s : State) (i : Nat) (o : Nco) : (s.setNco i o).sresetReq = s.sresetReq := rfl
@[simp] theorem setNco_dl (s : State) (i : Nat) (o : Nco) : (s.setNco i o).dl = s.dl := rfl
@[simp] theorem setNco_hb (s : State) (i : Nat) (o : Nco) : (s.setNco i o).hb = s.hb := rfl
@[simp] theorem setNco_ch (s : State) (i : Nat) (o : Nco) : (s.setNco i o).ch = s.ch := rfl
@[simp] theorem setNco_fir (s : State) (i : Nat) (o : Nco) : (s.setNco i o).fir = s.fir := rfl
@[simp] theorem setNco_iir (s : State) (i : Nat) (o : Nco) : (s.setNco i o).iir = s.iir := rfl
@[simp] theorem setNco_gz (s : State) (i : Nat) (o : Nco) : (s.setNco i o).gz = s.gz := rfl
@[simp] theorem setNco_nco (s : State) (i : Nat) (o : Nco) : (s.setNco i o).nco = s.nco.setIfInBounds i o := rfl
@[simp] theorem setNco_dmem (s : State) (i : Nat) (o : Nco) : (s.setNco i o).dmem = s.dmem := rfl
@[simp] theorem setNco_inputs (s : State) (i : Nat) (o : Nco) : (s.setNco i o).inputs = s.inputs := rfl
@[simp] theorem setNco_response (s : State) (i : Nat) (o : Nco) : (s.setNco i o).response = s.response := rfl

/-! ## advance -/

@[simp] theorem advance_status (s : State) : (advance s).status = s.status := rfl
@[simp] theorem advance_cp (s : State) : (advance s).cp = s.cp + 64#32 := rfl
@[simp] theorem advance_lc (s : State) : (advance s).lc = s.lc := rfl
@[simp] theorem advance_cause (s : State) : (advance s).cause = s.cause := rfl
@[simp] theorem advance_faultCp (s : State) : (advance s).faultCp = s.faultCp := rfl
@[simp] theorem advance_faultInfo (s : State) : (advance s).faultInfo = s.faultInfo := rfl
@[simp] theorem advance_lastCount (s : State) : (advance s).lastCount = s.lastCount := rfl
@[simp] theorem advance_irqEn (s : State) : (advance s).irqEn = s.irqEn := rfl
@[simp] theorem advance_irqPend (s : State) : (advance s).irqPend = s.irqPend := rfl
@[simp] theorem advance_retired (s : State) : (advance s).retired = s.retired := rfl
@[simp] theorem advance_abortReq (s : State) : (advance s).abortReq = s.abortReq := rfl
@[simp] theorem advance_sresetReq (s : State) : (advance s).sresetReq = s.sresetReq := rfl
@[simp] theorem advance_dl (s : State) : (advance s).dl = s.dl := rfl
@[simp] theorem advance_hb (s : State) : (advance s).hb = s.hb := rfl
@[simp] theorem advance_ch (s : State) : (advance s).ch = s.ch := rfl
@[simp] theorem advance_fir (s : State) : (advance s).fir = s.fir := rfl
@[simp] theorem advance_iir (s : State) : (advance s).iir = s.iir := rfl
@[simp] theorem advance_gz (s : State) : (advance s).gz = s.gz := rfl
@[simp] theorem advance_nco (s : State) : (advance s).nco = s.nco := rfl
@[simp] theorem advance_dmem (s : State) : (advance s).dmem = s.dmem := rfl
@[simp] theorem advance_inputs (s : State) : (advance s).inputs = s.inputs := rfl
@[simp] theorem advance_response (s : State) : (advance s).response = s.response := rfl

/-! ## retire -/

@[simp] theorem retire_status (s : State) : (retire s).status = s.status := rfl
@[simp] theorem retire_cp (s : State) : (retire s).cp = s.cp := rfl
@[simp] theorem retire_lc (s : State) : (retire s).lc = s.lc := rfl
@[simp] theorem retire_cause (s : State) : (retire s).cause = s.cause := rfl
@[simp] theorem retire_faultCp (s : State) : (retire s).faultCp = s.faultCp := rfl
@[simp] theorem retire_faultInfo (s : State) : (retire s).faultInfo = s.faultInfo := rfl
@[simp] theorem retire_lastCount (s : State) : (retire s).lastCount = s.lastCount := rfl
@[simp] theorem retire_irqEn (s : State) : (retire s).irqEn = s.irqEn := rfl
@[simp] theorem retire_irqPend (s : State) : (retire s).irqPend = s.irqPend := rfl
@[simp] theorem retire_retired (s : State) : (retire s).retired = s.retired + 1#64 := rfl
@[simp] theorem retire_abortReq (s : State) : (retire s).abortReq = s.abortReq := rfl
@[simp] theorem retire_sresetReq (s : State) : (retire s).sresetReq = s.sresetReq := rfl
@[simp] theorem retire_dl (s : State) : (retire s).dl = s.dl := rfl
@[simp] theorem retire_hb (s : State) : (retire s).hb = s.hb := rfl
@[simp] theorem retire_ch (s : State) : (retire s).ch = s.ch := rfl
@[simp] theorem retire_fir (s : State) : (retire s).fir = s.fir := rfl
@[simp] theorem retire_iir (s : State) : (retire s).iir = s.iir := rfl
@[simp] theorem retire_gz (s : State) : (retire s).gz = s.gz := rfl
@[simp] theorem retire_nco (s : State) : (retire s).nco = s.nco := rfl
@[simp] theorem retire_dmem (s : State) : (retire s).dmem = s.dmem := rfl
@[simp] theorem retire_inputs (s : State) : (retire s).inputs = s.inputs := rfl
@[simp] theorem retire_response (s : State) : (retire s).response = s.response := rfl

/-! ## complete -/

@[simp] theorem complete_status (s : State) : (complete s).status = s.status := rfl
@[simp] theorem complete_cp (s : State) : (complete s).cp = s.cp + 64#32 := rfl
@[simp] theorem complete_lc (s : State) : (complete s).lc = s.lc := rfl
@[simp] theorem complete_cause (s : State) : (complete s).cause = s.cause := rfl
@[simp] theorem complete_faultCp (s : State) : (complete s).faultCp = s.faultCp := rfl
@[simp] theorem complete_faultInfo (s : State) : (complete s).faultInfo = s.faultInfo := rfl
@[simp] theorem complete_lastCount (s : State) : (complete s).lastCount = s.lastCount := rfl
@[simp] theorem complete_irqEn (s : State) : (complete s).irqEn = s.irqEn := rfl
@[simp] theorem complete_irqPend (s : State) : (complete s).irqPend = s.irqPend := rfl
@[simp] theorem complete_retired (s : State) : (complete s).retired = s.retired + 1#64 := rfl
@[simp] theorem complete_abortReq (s : State) : (complete s).abortReq = s.abortReq := rfl
@[simp] theorem complete_sresetReq (s : State) : (complete s).sresetReq = s.sresetReq := rfl
@[simp] theorem complete_dl (s : State) : (complete s).dl = s.dl := rfl
@[simp] theorem complete_hb (s : State) : (complete s).hb = s.hb := rfl
@[simp] theorem complete_ch (s : State) : (complete s).ch = s.ch := rfl
@[simp] theorem complete_fir (s : State) : (complete s).fir = s.fir := rfl
@[simp] theorem complete_iir (s : State) : (complete s).iir = s.iir := rfl
@[simp] theorem complete_gz (s : State) : (complete s).gz = s.gz := rfl
@[simp] theorem complete_nco (s : State) : (complete s).nco = s.nco := rfl
@[simp] theorem complete_dmem (s : State) : (complete s).dmem = s.dmem := rfl
@[simp] theorem complete_inputs (s : State) : (complete s).inputs = s.inputs := rfl
@[simp] theorem complete_response (s : State) : (complete s).response = s.response := rfl

/-! ## takeFault -/

@[simp] theorem takeFault_status (c : Cause) (v : Word) (s : State) :
    (takeFault c v s).status = { s.status with busy := false, fault := true } := rfl
@[simp] theorem takeFault_cp (c : Cause) (v : Word) (s : State) : (takeFault c v s).cp = s.cp := rfl
@[simp] theorem takeFault_lc (c : Cause) (v : Word) (s : State) : (takeFault c v s).lc = s.lc := rfl
@[simp] theorem takeFault_cause (c : Cause) (v : Word) (s : State) : (takeFault c v s).cause = c := rfl
@[simp] theorem takeFault_faultCp (c : Cause) (v : Word) (s : State) : (takeFault c v s).faultCp = s.cp := rfl
@[simp] theorem takeFault_faultInfo (c : Cause) (v : Word) (s : State) : (takeFault c v s).faultInfo = v := rfl
@[simp] theorem takeFault_lastCount (c : Cause) (v : Word) (s : State) :
    (takeFault c v s).lastCount = s.lastCount := rfl
@[simp] theorem takeFault_irqEn (c : Cause) (v : Word) (s : State) : (takeFault c v s).irqEn = s.irqEn := rfl
@[simp] theorem takeFault_irqPend (c : Cause) (v : Word) (s : State) :
    (takeFault c v s).irqPend = { s.irqPend with fault := true } := rfl
@[simp] theorem takeFault_retired (c : Cause) (v : Word) (s : State) : (takeFault c v s).retired = s.retired := rfl
@[simp] theorem takeFault_abortReq (c : Cause) (v : Word) (s : State) : (takeFault c v s).abortReq = false := rfl
@[simp] theorem takeFault_sresetReq (c : Cause) (v : Word) (s : State) :
    (takeFault c v s).sresetReq = s.sresetReq := rfl
@[simp] theorem takeFault_dl (c : Cause) (v : Word) (s : State) : (takeFault c v s).dl = s.dl := rfl
@[simp] theorem takeFault_hb (c : Cause) (v : Word) (s : State) : (takeFault c v s).hb = s.hb := rfl
@[simp] theorem takeFault_ch (c : Cause) (v : Word) (s : State) : (takeFault c v s).ch = s.ch := rfl
@[simp] theorem takeFault_fir (c : Cause) (v : Word) (s : State) : (takeFault c v s).fir = s.fir := rfl
@[simp] theorem takeFault_iir (c : Cause) (v : Word) (s : State) : (takeFault c v s).iir = s.iir := rfl
@[simp] theorem takeFault_gz (c : Cause) (v : Word) (s : State) : (takeFault c v s).gz = s.gz := rfl
@[simp] theorem takeFault_nco (c : Cause) (v : Word) (s : State) : (takeFault c v s).nco = s.nco := rfl
@[simp] theorem takeFault_dmem (c : Cause) (v : Word) (s : State) : (takeFault c v s).dmem = s.dmem := rfl
@[simp] theorem takeFault_inputs (c : Cause) (v : Word) (s : State) : (takeFault c v s).inputs = s.inputs := rfl
@[simp] theorem takeFault_response (c : Cause) (v : Word) (s : State) : (takeFault c v s).response = s.response := rfl

/-! ## startRun -/

@[simp] theorem startRun_status (s : State) :
    (startRun s).status = { s.status with busy := true, done := false, aborted := false } := rfl
@[simp] theorem startRun_cp (s : State) : (startRun s).cp = s.cp := rfl
@[simp] theorem startRun_lc (s : State) : (startRun s).lc = s.lc := rfl
@[simp] theorem startRun_cause (s : State) : (startRun s).cause = s.cause := rfl
@[simp] theorem startRun_faultCp (s : State) : (startRun s).faultCp = s.faultCp := rfl
@[simp] theorem startRun_faultInfo (s : State) : (startRun s).faultInfo = s.faultInfo := rfl
@[simp] theorem startRun_lastCount (s : State) : (startRun s).lastCount = s.lastCount := rfl
@[simp] theorem startRun_irqEn (s : State) : (startRun s).irqEn = s.irqEn := rfl
@[simp] theorem startRun_irqPend (s : State) : (startRun s).irqPend = s.irqPend := rfl
@[simp] theorem startRun_retired (s : State) : (startRun s).retired = s.retired := rfl
@[simp] theorem startRun_abortReq (s : State) : (startRun s).abortReq = s.abortReq := rfl
@[simp] theorem startRun_sresetReq (s : State) : (startRun s).sresetReq = s.sresetReq := rfl
@[simp] theorem startRun_dl (s : State) : (startRun s).dl = s.dl := rfl
@[simp] theorem startRun_hb (s : State) : (startRun s).hb = s.hb := rfl
@[simp] theorem startRun_ch (s : State) : (startRun s).ch = s.ch := rfl
@[simp] theorem startRun_fir (s : State) : (startRun s).fir = s.fir := rfl
@[simp] theorem startRun_iir (s : State) : (startRun s).iir = s.iir := rfl
@[simp] theorem startRun_gz (s : State) : (startRun s).gz = s.gz := rfl
@[simp] theorem startRun_nco (s : State) : (startRun s).nco = s.nco := rfl
@[simp] theorem startRun_dmem (s : State) : (startRun s).dmem = s.dmem := rfl
@[simp] theorem startRun_inputs (s : State) : (startRun s).inputs = s.inputs := rfl
@[simp] theorem startRun_response (s : State) : (startRun s).response = s.response := rfl

/-! ## abortRun -/

@[simp] theorem abortRun_status (s : State) :
    (abortRun s).status = { s.status with busy := false, aborted := true } := rfl
@[simp] theorem abortRun_cp (s : State) : (abortRun s).cp = s.cp := rfl
@[simp] theorem abortRun_lc (s : State) : (abortRun s).lc = s.lc := rfl
@[simp] theorem abortRun_cause (s : State) : (abortRun s).cause = s.cause := rfl
@[simp] theorem abortRun_faultCp (s : State) : (abortRun s).faultCp = s.faultCp := rfl
@[simp] theorem abortRun_faultInfo (s : State) : (abortRun s).faultInfo = s.faultInfo := rfl
@[simp] theorem abortRun_lastCount (s : State) : (abortRun s).lastCount = s.lastCount := rfl
@[simp] theorem abortRun_irqEn (s : State) : (abortRun s).irqEn = s.irqEn := rfl
@[simp] theorem abortRun_irqPend (s : State) : (abortRun s).irqPend = { s.irqPend with abort := true } := rfl
@[simp] theorem abortRun_retired (s : State) : (abortRun s).retired = s.retired := rfl
@[simp] theorem abortRun_abortReq (s : State) : (abortRun s).abortReq = false := rfl
@[simp] theorem abortRun_sresetReq (s : State) : (abortRun s).sresetReq = s.sresetReq := rfl
@[simp] theorem abortRun_dl (s : State) : (abortRun s).dl = s.dl := rfl
@[simp] theorem abortRun_hb (s : State) : (abortRun s).hb = s.hb := rfl
@[simp] theorem abortRun_ch (s : State) : (abortRun s).ch = s.ch := rfl
@[simp] theorem abortRun_fir (s : State) : (abortRun s).fir = s.fir := rfl
@[simp] theorem abortRun_iir (s : State) : (abortRun s).iir = s.iir := rfl
@[simp] theorem abortRun_gz (s : State) : (abortRun s).gz = s.gz := rfl
@[simp] theorem abortRun_nco (s : State) : (abortRun s).nco = s.nco := rfl
@[simp] theorem abortRun_dmem (s : State) : (abortRun s).dmem = s.dmem := rfl
@[simp] theorem abortRun_inputs (s : State) : (abortRun s).inputs = s.inputs := rfl
@[simp] theorem abortRun_response (s : State) : (abortRun s).response = s.response := rfl

/-! ## softReset -/

@[simp] theorem softReset_status (s : State) : (softReset s).status = State.reset.status := rfl
@[simp] theorem softReset_cp (s : State) : (softReset s).cp = State.reset.cp := rfl
@[simp] theorem softReset_lc (s : State) : (softReset s).lc = State.reset.lc := rfl
@[simp] theorem softReset_cause (s : State) : (softReset s).cause = State.reset.cause := rfl
@[simp] theorem softReset_faultCp (s : State) : (softReset s).faultCp = State.reset.faultCp := rfl
@[simp] theorem softReset_faultInfo (s : State) : (softReset s).faultInfo = State.reset.faultInfo := rfl
@[simp] theorem softReset_lastCount (s : State) : (softReset s).lastCount = State.reset.lastCount := rfl
@[simp] theorem softReset_irqEn (s : State) : (softReset s).irqEn = State.reset.irqEn := rfl
@[simp] theorem softReset_irqPend (s : State) : (softReset s).irqPend = State.reset.irqPend := rfl
@[simp] theorem softReset_retired (s : State) : (softReset s).retired = State.reset.retired := rfl
@[simp] theorem softReset_abortReq (s : State) : (softReset s).abortReq = State.reset.abortReq := rfl
@[simp] theorem softReset_sresetReq (s : State) : (softReset s).sresetReq = State.reset.sresetReq := rfl
@[simp] theorem softReset_dl (s : State) : (softReset s).dl = State.reset.dl := rfl
@[simp] theorem softReset_hb (s : State) : (softReset s).hb = State.reset.hb := rfl
@[simp] theorem softReset_ch (s : State) : (softReset s).ch = State.reset.ch := rfl
@[simp] theorem softReset_fir (s : State) : (softReset s).fir = State.reset.fir := rfl
@[simp] theorem softReset_iir (s : State) : (softReset s).iir = State.reset.iir := rfl
@[simp] theorem softReset_gz (s : State) : (softReset s).gz = State.reset.gz := rfl
@[simp] theorem softReset_nco (s : State) : (softReset s).nco = State.reset.nco := rfl
@[simp] theorem softReset_dmem (s : State) : (softReset s).dmem = s.dmem := rfl
@[simp] theorem softReset_inputs (s : State) : (softReset s).inputs = s.inputs := rfl
@[simp] theorem softReset_response (s : State) : (softReset s).response = s.response := rfl

/-! ## haltFlags -/

@[simp] theorem haltFlags_status (s : State) :
    (haltFlags s).status = { s.status with busy := false, done := true } := rfl
@[simp] theorem haltFlags_cp (s : State) : (haltFlags s).cp = s.cp := rfl
@[simp] theorem haltFlags_lc (s : State) : (haltFlags s).lc = s.lc := rfl
@[simp] theorem haltFlags_cause (s : State) : (haltFlags s).cause = s.cause := rfl
@[simp] theorem haltFlags_faultCp (s : State) : (haltFlags s).faultCp = s.faultCp := rfl
@[simp] theorem haltFlags_faultInfo (s : State) : (haltFlags s).faultInfo = s.faultInfo := rfl
@[simp] theorem haltFlags_lastCount (s : State) : (haltFlags s).lastCount = s.lastCount := rfl
@[simp] theorem haltFlags_irqEn (s : State) : (haltFlags s).irqEn = s.irqEn := rfl
@[simp] theorem haltFlags_irqPend (s : State) : (haltFlags s).irqPend = { s.irqPend with done := true } := rfl
@[simp] theorem haltFlags_retired (s : State) : (haltFlags s).retired = s.retired := rfl
@[simp] theorem haltFlags_abortReq (s : State) : (haltFlags s).abortReq = s.abortReq := rfl
@[simp] theorem haltFlags_sresetReq (s : State) : (haltFlags s).sresetReq = s.sresetReq := rfl
@[simp] theorem haltFlags_dl (s : State) : (haltFlags s).dl = s.dl := rfl
@[simp] theorem haltFlags_hb (s : State) : (haltFlags s).hb = s.hb := rfl
@[simp] theorem haltFlags_ch (s : State) : (haltFlags s).ch = s.ch := rfl
@[simp] theorem haltFlags_fir (s : State) : (haltFlags s).fir = s.fir := rfl
@[simp] theorem haltFlags_iir (s : State) : (haltFlags s).iir = s.iir := rfl
@[simp] theorem haltFlags_gz (s : State) : (haltFlags s).gz = s.gz := rfl
@[simp] theorem haltFlags_nco (s : State) : (haltFlags s).nco = s.nco := rfl
@[simp] theorem haltFlags_dmem (s : State) : (haltFlags s).dmem = s.dmem := rfl
@[simp] theorem haltFlags_inputs (s : State) : (haltFlags s).inputs = s.inputs := rfl
@[simp] theorem haltFlags_response (s : State) : (haltFlags s).response = s.response := rfl

/-! ## signalFlag -/

@[simp] theorem signalFlag_status (s : State) : (signalFlag s).status = s.status := rfl
@[simp] theorem signalFlag_cp (s : State) : (signalFlag s).cp = s.cp := rfl
@[simp] theorem signalFlag_lc (s : State) : (signalFlag s).lc = s.lc := rfl
@[simp] theorem signalFlag_cause (s : State) : (signalFlag s).cause = s.cause := rfl
@[simp] theorem signalFlag_faultCp (s : State) : (signalFlag s).faultCp = s.faultCp := rfl
@[simp] theorem signalFlag_faultInfo (s : State) : (signalFlag s).faultInfo = s.faultInfo := rfl
@[simp] theorem signalFlag_lastCount (s : State) : (signalFlag s).lastCount = s.lastCount := rfl
@[simp] theorem signalFlag_irqEn (s : State) : (signalFlag s).irqEn = s.irqEn := rfl
@[simp] theorem signalFlag_irqPend (s : State) : (signalFlag s).irqPend = { s.irqPend with signal := true } := rfl
@[simp] theorem signalFlag_retired (s : State) : (signalFlag s).retired = s.retired := rfl
@[simp] theorem signalFlag_abortReq (s : State) : (signalFlag s).abortReq = s.abortReq := rfl
@[simp] theorem signalFlag_sresetReq (s : State) : (signalFlag s).sresetReq = s.sresetReq := rfl
@[simp] theorem signalFlag_dl (s : State) : (signalFlag s).dl = s.dl := rfl
@[simp] theorem signalFlag_hb (s : State) : (signalFlag s).hb = s.hb := rfl
@[simp] theorem signalFlag_ch (s : State) : (signalFlag s).ch = s.ch := rfl
@[simp] theorem signalFlag_fir (s : State) : (signalFlag s).fir = s.fir := rfl
@[simp] theorem signalFlag_iir (s : State) : (signalFlag s).iir = s.iir := rfl
@[simp] theorem signalFlag_gz (s : State) : (signalFlag s).gz = s.gz := rfl
@[simp] theorem signalFlag_nco (s : State) : (signalFlag s).nco = s.nco := rfl
@[simp] theorem signalFlag_dmem (s : State) : (signalFlag s).dmem = s.dmem := rfl
@[simp] theorem signalFlag_inputs (s : State) : (signalFlag s).inputs = s.inputs := rfl
@[simp] theorem signalFlag_response (s : State) : (signalFlag s).response = s.response := rfl

/-! ## The banks -/

/-- Reading an instance of `U.DL` after a write to one. -/
theorem dlAt_setDl (s : State) (i j : Nat) (l : DelayLine) (hi : i < Config.dlUnits) :
    (s.setDl i l).dlAt j = if j = i then l else s.dlAt j := by
  simp only [State.dlAt, setDl_dl, Vector.getElem?_setIfInBounds]
  by_cases h : i = j
  · subst h
    simp [hi]
  · simp [h, Ne.symm h]

@[simp] theorem dlAt_setDl_same (s : State) (i : Nat) (l : DelayLine) (hi : i < Config.dlUnits) :
    (s.setDl i l).dlAt i = l := by
  simp [dlAt_setDl s i i l hi]

/-- Reading an instance of `U.HB` after a write to one. -/
theorem hbAt_setHb (s : State) (i j : Nat) (h : Halfband) (hi : i < Config.hbUnits) :
    (s.setHb i h).hbAt j = if j = i then h else s.hbAt j := by
  simp only [State.hbAt, setHb_hb, Vector.getElem?_setIfInBounds]
  by_cases h : i = j
  · subst h
    simp [hi]
  · simp [h, Ne.symm h]

@[simp] theorem hbAt_setHb_same (s : State) (i : Nat) (h : Halfband) (hi : i < Config.hbUnits) :
    (s.setHb i h).hbAt i = h := by
  simp [hbAt_setHb s i i h hi]

/-- Reading an instance of `U.CH` after a write to one. -/
theorem chAt_setCh (s : State) (i j : Nat) (c : Chain) (hi : i < Config.chainUnits) :
    (s.setCh i c).chAt j = if j = i then c else s.chAt j := by
  simp only [State.chAt, setCh_ch, Vector.getElem?_setIfInBounds]
  by_cases h : i = j
  · subst h
    simp [hi]
  · simp [h, Ne.symm h]

@[simp] theorem chAt_setCh_same (s : State) (i : Nat) (c : Chain) (hi : i < Config.chainUnits) :
    (s.setCh i c).chAt i = c := by
  simp [chAt_setCh s i i c hi]

/-- Reading an instance of `U.FIR` after a write to one. -/
theorem firAt_setFir (s : State) (i j : Nat) (f : Fir) (hi : i < Config.firUnits) :
    (s.setFir i f).firAt j = if j = i then f else s.firAt j := by
  simp only [State.firAt, setFir_fir, Vector.getElem?_setIfInBounds]
  by_cases h : i = j
  · subst h
    simp [hi]
  · simp [h, Ne.symm h]

@[simp] theorem firAt_setFir_same (s : State) (i : Nat) (f : Fir) (hi : i < Config.firUnits) :
    (s.setFir i f).firAt i = f := by
  simp [firAt_setFir s i i f hi]

/-- Reading an instance of `U.IIR` after a write to one. -/
theorem iirAt_setIir (s : State) (i j : Nat) (g : Iir) (hi : i < Config.iirUnits) :
    (s.setIir i g).iirAt j = if j = i then g else s.iirAt j := by
  simp only [State.iirAt, setIir_iir, Vector.getElem?_setIfInBounds]
  by_cases h : i = j
  · subst h
    simp [hi]
  · simp [h, Ne.symm h]

@[simp] theorem iirAt_setIir_same (s : State) (i : Nat) (g : Iir) (hi : i < Config.iirUnits) :
    (s.setIir i g).iirAt i = g := by
  simp [iirAt_setIir s i i g hi]

/-- Reading an instance of `U.GZ` after a write to one. -/
theorem gzAt_setGz (s : State) (i j : Nat) (g : Goertzel) (hi : i < Config.gzUnits) :
    (s.setGz i g).gzAt j = if j = i then g else s.gzAt j := by
  simp only [State.gzAt, setGz_gz, Vector.getElem?_setIfInBounds]
  by_cases h : i = j
  · subst h
    simp [hi]
  · simp [h, Ne.symm h]

@[simp] theorem gzAt_setGz_same (s : State) (i : Nat) (g : Goertzel) (hi : i < Config.gzUnits) :
    (s.setGz i g).gzAt i = g := by
  simp [gzAt_setGz s i i g hi]

/-- Reading an instance of `U.NCO` after a write to one. -/
theorem ncoAt_setNco (s : State) (i j : Nat) (o : Nco) (hi : i < Config.ncoUnits) :
    (s.setNco i o).ncoAt j = if j = i then o else s.ncoAt j := by
  simp only [State.ncoAt, setNco_nco, Vector.getElem?_setIfInBounds]
  by_cases h : i = j
  · subst h
    simp [hi]
  · simp [h, Ne.symm h]

@[simp] theorem ncoAt_setNco_same (s : State) (i : Nat) (o : Nco) (hi : i < Config.ncoUnits) :
    (s.setNco i o).ncoAt i = o := by
  simp [ncoAt_setNco s i i o hi]

end Sys2Proof.Machine
end

