-- ==== Sys2Proof/Laws/Commands.lean ====
section
/-! SUPPORT. The one form of a command: what its checks answer, and the two things it can do. -/

namespace Sys2Proof.Machine

/-! ## Checks -/

@[simp] theorem firstFault_nil : firstFault [] = none := rfl

theorem firstFault_cons (c : Check) (cs : List Check) :
    firstFault (c :: cs) = if c.ok then firstFault cs else some (c.cause, c.info) := by
  cases h : c.ok <;> simp [firstFault, h]

theorem firstFault_append (cs ds : List Check) :
    firstFault (cs ++ ds) = (firstFault cs).or (firstFault ds) := by
  simp only [firstFault, List.find?_append]
  cases cs.find? fun c => !c.ok <;> simp

theorem firstFault_eq_none_iff (cs : List Check) : firstFault cs = none ↔ ∀ c ∈ cs, c.ok = true := by
  simp [firstFault]

/-- The reported fault is that of a failing check, every check before it passing (R456). -/
theorem firstFault_eq_some {cs : List Check} {c : Cause} {v : Word} (h : firstFault cs = some (c, v)) :
    ∃ pre k post, cs = pre ++ k :: post ∧ k.ok = false ∧ k.cause = c ∧ k.info = v ∧ ∀ p ∈ pre, p.ok = true := by
  induction cs with
  | nil => simp at h
  | cons d ds ih =>
    rw [firstFault_cons] at h
    cases hd : d.ok with
    | true =>
      rw [hd, if_pos rfl] at h
      obtain ⟨pre, k, post, rfl, h1, h2, h3, h4⟩ := ih h
      exact ⟨d :: pre, k, post, rfl, h1, h2, h3, by simpa [hd] using h4⟩
    | false =>
      rw [hd] at h
      simp only [Bool.false_eq_true, if_false, Option.some.injEq, Prod.mk.injEq] at h
      exact ⟨[], d, ds, rfl, hd, h.1, h.2, by simp⟩

/-! ## Commands -/

theorem checked_of_ok {s done : State} {cs : List Check} (h : ∀ c ∈ cs, c.ok = true) :
    checked s cs done = .next done := by
  rw [checked, (firstFault_eq_none_iff cs).mpr h]

theorem checked_of_fault {s done : State} {cs : List Check} {c : Cause} {v : Word} (h : firstFault cs = some (c, v)) :
    checked s cs done = .next (takeFault c v s) := by
  rw [checked, h]

/-- Everything a checked command can do: its effect where every check passes, or the fault of a failing check. -/
theorem checked_cases (s done : State) (cs : List Check) :
    ((∀ c ∈ cs, c.ok = true) ∧ checked s cs done = .next done) ∨
      ∃ k ∈ cs, k.ok = false ∧ firstFault cs = some (k.cause, k.info) ∧
        checked s cs done = .next (takeFault k.cause k.info s) := by
  cases h : firstFault cs with
  | none =>
    have hn := (firstFault_eq_none_iff cs).mp h
    exact Or.inl ⟨hn, checked_of_ok hn⟩
  | some r =>
    obtain ⟨c, v⟩ := r
    obtain ⟨pre, k, post, rfl, h1, rfl, rfl, _⟩ := firstFault_eq_some h
    exact Or.inr ⟨k, by simp, h1, rfl, checked_of_fault h⟩

/-- A command whose checks pass completes with its effect. -/
theorem command_of_ok {s effect : State} {cs : List Check} (h : ∀ c ∈ cs, c.ok = true) :
    command s cs effect = .next (complete effect) :=
  checked_of_ok h

/-- A command whose first failing check is known takes that fault. -/
theorem command_of_fault {s effect : State} {cs : List Check} {c : Cause} {v : Word}
    (h : firstFault cs = some (c, v)) : command s cs effect = .next (takeFault c v s) :=
  checked_of_fault h

/-- Fault entry, field by field. -/
theorem takeFault_entered (c : Cause) (v : Word) (s : State) : FaultEntered c v s (takeFault c v s) := by
  constructor <;> first | rfl | exact ⟨rfl, rfl, rfl, rfl, rfl, rfl, rfl⟩

/-- A completed effect that touches neither a register nor a latch. -/
theorem complete_completed {s e : State} (hcp : e.cp = s.cp) (hr : e.retired = s.retired) (hc : SameControl s e) :
    Completed s (complete e) := by
  refine ⟨by simp [hcp], by simp [hr], ?_⟩
  obtain ⟨h1, h2, h3, h4, h5, h6, h7, h8, h9, h10, h11⟩ := hc
  exact ⟨by simp [h1], by simp [h2], by simp [h3], by simp [h4], by simp [h5], by simp [h6], by simp [h7],
    by simp [h8], by simp [h9], by simp [h10], by simp [h11]⟩

/-! ## Regions -/

theorem cpxRegion_ok_iff (a : Word) (n : Nat) :
    ((cpxRegion a n).aligned = true ∧ (cpxRegion a n).inRange = true) ↔ LegalCpxs a n := by
  simp [cpxRegion, Region.aligned, Region.inRange, LegalCpxs, LegalRegion]
  exact fun _ => or_congr Iff.rfl decide_eq_true_iff

theorem realRegion_ok_iff (a : Word) (n : Nat) :
    ((realRegion a n).aligned = true ∧ (realRegion a n).inRange = true) ↔ LegalReals a n := by
  simp [realRegion, Region.aligned, Region.inRange, LegalReals, LegalRegion]
  exact fun _ => or_congr Iff.rfl decide_eq_true_iff

theorem rec16Region_ok_iff (a : Word) (n : Nat) :
    ((rec16Region a n).aligned = true ∧ (rec16Region a n).inRange = true) ↔ LegalRegion a n 16 8 := by
  simp [rec16Region, Region.aligned, Region.inRange, LegalRegion]
  exact fun _ => or_congr Iff.rfl decide_eq_true_iff

theorem rec32Region_ok_iff (a : Word) (n : Nat) :
    ((rec32Region a n).aligned = true ∧ (rec32Region a n).inRange = true) ↔ LegalRegion a n 32 8 := by
  simp [rec32Region, Region.aligned, Region.inRange, LegalRegion]
  exact fun _ => or_congr Iff.rfl decide_eq_true_iff

/-- The region checks pass where every region is aligned and in range. -/
theorem regionChecks_ok {rs : List Region} (h : ∀ r ∈ rs, r.aligned = true ∧ r.inRange = true) :
    ∀ c ∈ regionChecks rs, c.ok = true := by
  intro c hc
  simp only [regionChecks, List.mem_append, List.mem_map] at hc
  rcases hc with ⟨r, hr, rfl⟩ | ⟨r, hr, rfl⟩
  · exact (h r hr).1
  · exact (h r hr).2

theorem regionChecks_ok_iff (rs : List Region) :
    (∀ c ∈ regionChecks rs, c.ok = true) ↔ ∀ r ∈ rs, r.aligned = true ∧ r.inRange = true := by
  refine ⟨fun h r hr => ⟨?_, ?_⟩, regionChecks_ok⟩
  · exact h (alignCheck r) (by simp [regionChecks]; exact Or.inl ⟨r, hr, rfl⟩)
  · exact h (rangeCheck r) (by simp [regionChecks]; exact Or.inr ⟨r, hr, rfl⟩)

/-! ## Data-moving commands -/

/-- A command whose effect is new DMEM contents completes as R202 says and changes nothing else. -/
theorem complete_setDmem (s : State) (m : Memory) :
    Completed s (complete (s.setDmem m)) ∧ SameUnits s (complete (s.setDmem m)) ∧
      (complete (s.setDmem m)).lastCount = s.lastCount ∧ (complete (s.setDmem m)).dmem = m := by
  refine ⟨⟨rfl, rfl, ?_⟩, ?_, rfl, rfl⟩ <;> constructor <;> rfl

/-- The bytes outside a stored CPX array. -/
theorem keptOutside_writeCpxs {s t : State} (hwf : s.dmem.wf = true) (d : Nat) (zs : List Cpx)
    (ht : t.dmem = writeCpxs s.dmem d zs) : KeptOutside s t d (16 * zs.length) := by
  intro x hx
  rw [ht, readByte_writeCpxs_outside hwf hx]

/-- The bytes outside a stored real array. -/
theorem keptOutside_writeReals {s t : State} (hwf : s.dmem.wf = true) (d : Nat) (xs : List F64)
    (ht : t.dmem = writeReals s.dmem d xs) : KeptOutside s t d (8 * xs.length) := by
  intro x hx
  rw [ht, readByte_writeReals_outside hwf hx]

/-- The bytes outside one stored binary64. -/
theorem keptOutside_wrR {s t : State} (hwf : s.dmem.wf = true) (d : Nat) (x : F64) (ht : t.dmem = wrR s.dmem d x) :
    KeptOutside s t d 8 := by
  intro y hy
  rw [ht, readByte_wrR_outside hwf hy]

/-- The bytes outside one stored CPX. -/
theorem keptOutside_wrC {s t : State} (hwf : s.dmem.wf = true) (d : Nat) (z : Cpx) (ht : t.dmem = wrC s.dmem d z) :
    KeptOutside s t d 16 := by
  intro y hy
  rw [ht, readByte_wrC_outside hwf hy]

end Sys2Proof.Machine
end

