-- ==== Sys2Proof/Laws/Decode.lean ====
section
/-! SUPPORT. Laws of the descriptor's layout: a word of its bytes, a `K` field of its words, the fields of W[0], and the
descriptor of its 64 bytes. -/

namespace Sys2Proof

/-- A word is its four bytes, least significant first (R102). -/
theorem word_of_wordBytes (w : Word) :
    w.extractLsb' 24 8 ++ w.extractLsb' 16 8 ++ w.extractLsb' 8 8 ++ w.extractLsb' 0 8 = w := by
  have h1 : w.extractLsb' 24 8 ++ w.extractLsb' 16 8 = w.extractLsb' 16 16 :=
    BitVec.extractLsb'_append_extractLsb'_eq_extractLsb' rfl
  have h2 : w.extractLsb' 16 16 ++ w.extractLsb' 8 8 = w.extractLsb' 8 24 :=
    BitVec.extractLsb'_append_extractLsb'_eq_extractLsb' rfl
  have h3 : w.extractLsb' 8 24 ++ w.extractLsb' 0 8 = w.extractLsb' 0 32 :=
    BitVec.extractLsb'_append_extractLsb'_eq_extractLsb' rfl
  rw [h1, h2, h3, BitVec.extractLsb'_eq_self]

/-- A `K` field is its two words (R141). -/
theorem pair_of_words (x : F64) : highWord x ++ lowWord x = x := by
  have h : x.extractLsb' 32 32 ++ x.extractLsb' 0 32 = x.extractLsb' 0 64 :=
    BitVec.extractLsb'_append_extractLsb'_eq_extractLsb' rfl
  rw [highWord, lowWord, h, BitVec.extractLsb'_eq_self]

/-- The bits of an encoded W[0] (R141). -/
theorem getLsbD_encodeW0 (o : BitVec 8) (u m : Nib) (i : Nat) :
    (encodeW0 o u m).getLsbD i =
      if i < 8 then o.getLsbD i else if i < 12 then u.getLsbD (i - 8) else m.getLsbD (i - 12) := by
  have h1 : (encodeW0 o u m).getLsbD i =
      if i < 8 then o.getLsbD i else (0#16 ++ m ++ u : BitVec 24).getLsbD (i - 8) :=
    BitVec.getLsbD_append (x := (0#16 ++ m ++ u : BitVec 24)) (y := o)
  have h2 : ∀ j, (0#16 ++ m ++ u : BitVec 24).getLsbD j =
      if j < 4 then u.getLsbD j else (0#16 ++ m : BitVec 20).getLsbD (j - 4) := fun j =>
    BitVec.getLsbD_append (x := (0#16 ++ m : BitVec 20)) (y := u)
  have h3 : ∀ j, (0#16 ++ m : BitVec 20).getLsbD j = if j < 4 then m.getLsbD j else (0#16).getLsbD (j - 4) :=
    fun j => BitVec.getLsbD_append (x := 0#16) (y := m)
  rw [h1, h2, h3]
  by_cases c1 : i < 8
  · simp [c1]
  · by_cases c2 : i < 12
    · simp [c1, c2, show i - 8 < 4 by omega]
    · by_cases c3 : i - 8 - 4 < 4
      · rw [if_neg c1, if_neg (show ¬ i - 8 < 4 by omega), if_pos c3, if_neg c1, if_neg c2,
          show i - 8 - 4 = i - 12 by omega]
      · simp only [c1, c2, c3, if_false, show ¬ i - 8 < 4 by omega, BitVec.getLsbD_zero]
        exact (BitVec.getLsbD_of_ge m (i - 12) (by omega)).symm

theorem encodeW0_opc (o : BitVec 8) (u m : Nib) : (encodeW0 o u m).extractLsb' 0 8 = o := by
  apply BitVec.eq_of_getLsbD_eq
  intro i hi
  rw [BitVec.getLsbD_extractLsb', Nat.zero_add, getLsbD_encodeW0]
  simp [hi]

theorem encodeW0_unit (o : BitVec 8) (u m : Nib) : (encodeW0 o u m).extractLsb' 8 4 = u := by
  apply BitVec.eq_of_getLsbD_eq
  intro i hi
  rw [BitVec.getLsbD_extractLsb', getLsbD_encodeW0]
  simp [hi, show 8 + i < 12 by omega]

theorem encodeW0_mode (o : BitVec 8) (u m : Nib) : (encodeW0 o u m).extractLsb' 12 4 = m := by
  apply BitVec.eq_of_getLsbD_eq
  intro i hi
  rw [BitVec.getLsbD_extractLsb', getLsbD_encodeW0]
  simp [hi, show ¬ 12 + i < 8 by omega]

theorem encodeW0_reserved (o : BitVec 8) (u m : Nib) : (encodeW0 o u m).extractLsb' 16 16 = 0#16 := by
  apply BitVec.eq_of_getLsbD_eq
  intro i hi
  rw [BitVec.getLsbD_extractLsb', getLsbD_encodeW0, BitVec.getLsbD_of_ge m (16 + i - 12) (by omega)]
  simp [show ¬ 16 + i < 8 by omega, show ¬ 16 + i < 12 by omega]

/-- The fields of W[0] as the decoder reads them from an encoded one (R141). -/
theorem desc_encodeW0 (d : Desc) (o : BitVec 8) (u m : Nib) :
    Desc.opc { d with w0 := encodeW0 o u m } = o ∧ Desc.unit { d with w0 := encodeW0 o u m } = u ∧
      Desc.mode { d with w0 := encodeW0 o u m } = m ∧ Desc.reserved0 { d with w0 := encodeW0 o u m } = 0#16 :=
  ⟨encodeW0_opc o u m, encodeW0_unit o u m, encodeW0_mode o u m, encodeW0_reserved o u m⟩

/-- W[0] is its four fields (R141). -/
theorem w0_of_fields (d : Desc) : d.reserved0 ++ d.mode ++ d.unit ++ d.opc = d.w0 := by
  have h1 : d.w0.extractLsb' 16 16 ++ d.w0.extractLsb' 12 4 = d.w0.extractLsb' 12 20 :=
    BitVec.extractLsb'_append_extractLsb'_eq_extractLsb' rfl
  have h2 : d.w0.extractLsb' 12 20 ++ d.w0.extractLsb' 8 4 = d.w0.extractLsb' 8 24 :=
    BitVec.extractLsb'_append_extractLsb'_eq_extractLsb' rfl
  have h3 : d.w0.extractLsb' 8 24 ++ d.w0.extractLsb' 0 8 = d.w0.extractLsb' 0 32 :=
    BitVec.extractLsb'_append_extractLsb'_eq_extractLsb' rfl
  rw [Desc.reserved0, Desc.mode, Desc.unit, Desc.opc, h1, h2, h3, BitVec.extractLsb'_eq_self]

/-- A descriptor read back from its 64 bytes (R140). -/
theorem ofBytes_bytes (d : Desc) : Desc.ofBytes (fun k => (d.bytes[k]?).getD 0#8) = d := by
  obtain ⟨w0, a, b, dd, n, m, p, w7, k0, k1, k2, w14, w15⟩ := d
  have hk : ∀ x : F64,
      (highWord x).extractLsb' 24 8 ++ (highWord x).extractLsb' 16 8 ++ (highWord x).extractLsb' 8 8 ++
          (highWord x).extractLsb' 0 8 ++
        ((lowWord x).extractLsb' 24 8 ++ (lowWord x).extractLsb' 16 8 ++ (lowWord x).extractLsb' 8 8 ++
          (lowWord x).extractLsb' 0 8) = x := by
    intro x
    rw [word_of_wordBytes, word_of_wordBytes, pair_of_words]
  simp only [Desc.ofBytes, Desc.bytes, Desc.words, wordBytes, List.flatMap_cons, List.flatMap_nil, List.cons_append,
    List.nil_append, List.append_nil, pairOfBytes, wordOfBytes, Desc.mk.injEq]
  refine ⟨word_of_wordBytes w0, word_of_wordBytes a, word_of_wordBytes b, word_of_wordBytes dd, word_of_wordBytes n,
    word_of_wordBytes m, word_of_wordBytes p, word_of_wordBytes w7, hk k0, hk k1, hk k2, word_of_wordBytes w14,
    word_of_wordBytes w15⟩

end Sys2Proof
end

