-- ==== Sys2Proof/Laws/Fir.lean ====
section
/-! SUPPORT. What an output of `FD_CONV` can be (R352), stated once for the proofs that would otherwise unfold it. -/

namespace Sys2Proof.Machine

@[simp] theorem fdOutputs_length (taps : List F64) (xtail x : List Cpx) :
    (fdOutputs taps xtail x).length = x.length := by
  simp [fdOutputs]

theorem fdOutputs_getElem? (taps : List F64) (xtail x : List Cpx) (j : Nat) (h : j < x.length) :
    (fdOutputs taps xtail x)[j]? = some (fdOutput taps xtail x j) := by
  simp [fdOutputs, h]

/-- An output is the reference sum, or a value allowed beside the ideal sum. -/
theorem fdOutput_cases (taps : List F64) (xtail x : List Cpx) (j : Nat) :
    fdOutput taps xtail x j = fdReference taps (xtail ++ x) j ∨
      fdAllowed taps (xtail ++ x) j (fdOutput taps xtail x j) = true := by
  unfold fdOutput
  split
  · split
    · exact .inr ‹_›
    · exact .inl rfl
  · exact .inl rfl

/-- Where no implementation overflows, an allowed value is near the ideal sum in both channels. -/
theorem fdAllowed_near {taps : List F64} {w : List Cpx} {j : Nat} {y : Cpx} (h : fdAllowed taps w j y = true)
    (hb : fdBounded taps w = true) : fdNear Cpx.re taps w j y.re = true ∧ fdNear Cpx.im taps w j y.im = true := by
  simpa [fdAllowed, hb] using h

end Sys2Proof.Machine
end

