-- ==== Sys2Proof/Laws/PerInstr.lean ====
section
/-! SUPPORT. One lemma per instruction about its encoding: the descriptor it encodes to selects its own row of the opcode
map R144, with every operand read back from the field it was put into. -/

namespace Sys2Proof.Laws.Encoding

/-- The row of R144 that the encoding of `i` selects is that of `i`, operands included. -/
def Statement (i : Instr) : Prop := (opcodeRow (encodeDesc i)).map Prod.snd = some i

/-- The row selected by an OPC value, the operands being those of the descriptor. -/
theorem row_of_encodeW0 {d : Desc} {o : BitVec 8} {u m : Nib} (h : d.w0 = encodeW0 o u m) :
    d.opc = o ∧ d.unit = u ∧ d.mode = m := by
  refine ⟨?_, ?_, ?_⟩
  · rw [Desc.opc, h, encodeW0_opc]
  · rw [Desc.unit, h, encodeW0_unit]
  · rw [Desc.mode, h, encodeW0_mode]

theorem nop : Statement .nop := by
  have h := row_of_encodeW0 (d := encodeDesc .nop) rfl
  delta Statement opcodeRow
  rw [h.1, h.2.1, h.2.2]
  rfl

theorem halt : Statement .halt := by
  have h := row_of_encodeW0 (d := encodeDesc .halt) rfl
  delta Statement opcodeRow
  rw [h.1, h.2.1, h.2.2]
  rfl

theorem jump (a : Word) : Statement (.jump a) := by
  have h := row_of_encodeW0 (d := encodeDesc (.jump a)) rfl
  delta Statement opcodeRow
  rw [h.1, h.2.1, h.2.2]
  rfl

theorem lset (n : Word) : Statement (.lset n) := by
  have h := row_of_encodeW0 (d := encodeDesc (.lset n)) rfl
  delta Statement opcodeRow
  rw [h.1, h.2.1, h.2.2]
  rfl

theorem loop (a : Word) : Statement (.loop a) := by
  have h := row_of_encodeW0 (d := encodeDesc (.loop a)) rfl
  delta Statement opcodeRow
  rw [h.1, h.2.1, h.2.2]
  rfl

theorem signal : Statement .signal := by
  have h := row_of_encodeW0 (d := encodeDesc .signal) rfl
  delta Statement opcodeRow
  rw [h.1, h.2.1, h.2.2]
  rfl

theorem vadd (a b d n : Word) : Statement (.vadd a b d n) := by
  have h := row_of_encodeW0 (d := encodeDesc (.vadd a b d n)) rfl
  delta Statement opcodeRow
  rw [h.1, h.2.1, h.2.2]
  rfl

theorem vsub (a b d n : Word) : Statement (.vsub a b d n) := by
  have h := row_of_encodeW0 (d := encodeDesc (.vsub a b d n)) rfl
  delta Statement opcodeRow
  rw [h.1, h.2.1, h.2.2]
  rfl

theorem vmul (a b d n : Word) : Statement (.vmul a b d n) := by
  have h := row_of_encodeW0 (d := encodeDesc (.vmul a b d n)) rfl
  delta Statement opcodeRow
  rw [h.1, h.2.1, h.2.2]
  rfl

theorem vdiv (a b d n : Word) : Statement (.vdiv a b d n) := by
  have h := row_of_encodeW0 (d := encodeDesc (.vdiv a b d n)) rfl
  delta Statement opcodeRow
  rw [h.1, h.2.1, h.2.2]
  rfl

theorem vscale (a d n : Word) (k0 : F64) : Statement (.vscale a d n k0) := by
  have h := row_of_encodeW0 (d := encodeDesc (.vscale a d n k0)) rfl
  delta Statement opcodeRow
  rw [h.1, h.2.1, h.2.2]
  rfl

theorem vconj (a d n : Word) : Statement (.vconj a d n) := by
  have h := row_of_encodeW0 (d := encodeDesc (.vconj a d n)) rfl
  delta Statement opcodeRow
  rw [h.1, h.2.1, h.2.2]
  rfl

theorem vmag (a d n : Word) : Statement (.vmag a d n) := by
  have h := row_of_encodeW0 (d := encodeDesc (.vmag a d n)) rfl
  delta Statement opcodeRow
  rw [h.1, h.2.1, h.2.2]
  rfl

theorem vsqmag (a d n : Word) : Statement (.vsqmag a d n) := by
  have h := row_of_encodeW0 (d := encodeDesc (.vsqmag a d n)) rfl
  delta Statement opcodeRow
  rw [h.1, h.2.1, h.2.2]
  rfl

theorem vpolar (a d n : Word) : Statement (.vpolar a d n) := by
  have h := row_of_encodeW0 (d := encodeDesc (.vpolar a d n)) rfl
  delta Statement opcodeRow
  rw [h.1, h.2.1, h.2.2]
  rfl

theorem vrect (a d n : Word) : Statement (.vrect a d n) := by
  have h := row_of_encodeW0 (d := encodeDesc (.vrect a d n)) rfl
  delta Statement opcodeRow
  rw [h.1, h.2.1, h.2.2]
  rfl

theorem vclear (d n : Word) : Statement (.vclear d n) := by
  have h := row_of_encodeW0 (d := encodeDesc (.vclear d n)) rfl
  delta Statement opcodeRow
  rw [h.1, h.2.1, h.2.2]
  rfl

theorem vcopy (a d n : Word) : Statement (.vcopy a d n) := by
  have h := row_of_encodeW0 (d := encodeDesc (.vcopy a d n)) rfl
  delta Statement opcodeRow
  rw [h.1, h.2.1, h.2.2]
  rfl

theorem vdecim (a d n m : Word) : Statement (.vdecim a d n m) := by
  have h := row_of_encodeW0 (d := encodeDesc (.vdecim a d n m)) rfl
  delta Statement opcodeRow
  rw [h.1, h.2.1, h.2.2]
  rfl

theorem vnormsqr (a d n : Word) : Statement (.vnormsqr a d n) := by
  have h := row_of_encodeW0 (d := encodeDesc (.vnormsqr a d n)) rfl
  delta Statement opcodeRow
  rw [h.1, h.2.1, h.2.2]
  rfl

theorem vnorm (a d n : Word) : Statement (.vnorm a d n) := by
  have h := row_of_encodeW0 (d := encodeDesc (.vnorm a d n)) rfl
  delta Statement opcodeRow
  rw [h.1, h.2.1, h.2.2]
  rfl

theorem vpeak (a d n : Word) : Statement (.vpeak a d n) := by
  have h := row_of_encodeW0 (d := encodeDesc (.vpeak a d n)) rfl
  delta Statement opcodeRow
  rw [h.1, h.2.1, h.2.2]
  rfl

theorem vpeakpwr (a d n : Word) : Statement (.vpeakpwr a d n) := by
  have h := row_of_encodeW0 (d := encodeDesc (.vpeakpwr a d n)) rfl
  delta Statement opcodeRow
  rw [h.1, h.2.1, h.2.2]
  rfl

theorem dlCfg (u : Nib) (n m : Word) : Statement (.dlCfg u n m) := by
  have h := row_of_encodeW0 (d := encodeDesc (.dlCfg u n m)) rfl
  delta Statement opcodeRow
  rw [h.1, h.2.1, h.2.2]
  rfl

theorem dlPush (u : Nib) (a n : Word) : Statement (.dlPush u a n) := by
  have h := row_of_encodeW0 (d := encodeDesc (.dlPush u a n)) rfl
  delta Statement opcodeRow
  rw [h.1, h.2.1, h.2.2]
  rfl

theorem dlTap (u : Nib) (d m : Word) : Statement (.dlTap u d m) := by
  have h := row_of_encodeW0 (d := encodeDesc (.dlTap u d m)) rfl
  delta Statement opcodeRow
  rw [h.1, h.2.1, h.2.2]
  rfl

theorem dlMac (u : Nib) (a d n : Word) : Statement (.dlMac u a d n) := by
  have h := row_of_encodeW0 (d := encodeDesc (.dlMac u a d n)) rfl
  delta Statement opcodeRow
  rw [h.1, h.2.1, h.2.2]
  rfl

theorem hbCfg (u mode : Nib) (a n m p : Word) (k0 : F64) : Statement (.hbCfg u mode a n m p k0) := by
  have h := row_of_encodeW0 (d := encodeDesc (.hbCfg u mode a n m p k0)) rfl
  delta Statement opcodeRow
  rw [h.1, h.2.1, h.2.2]
  rfl

theorem hbRun (u : Nib) (a d n : Word) : Statement (.hbRun u a d n) := by
  have h := row_of_encodeW0 (d := encodeDesc (.hbRun u a d n)) rfl
  delta Statement opcodeRow
  rw [h.1, h.2.1, h.2.2]
  rfl

theorem chBuild (u : Nib) (d n m p : Word) : Statement (.chBuild u d n m p) := by
  have h := row_of_encodeW0 (d := encodeDesc (.chBuild u d n m p)) rfl
  delta Statement opcodeRow
  rw [h.1, h.2.1, h.2.2]
  rfl

theorem chProc (u : Nib) (a d n : Word) : Statement (.chProc u a d n) := by
  have h := row_of_encodeW0 (d := encodeDesc (.chProc u a d n)) rfl
  delta Statement opcodeRow
  rw [h.1, h.2.1, h.2.2]
  rfl

theorem chInfo (u : Nib) (d : Word) : Statement (.chInfo u d) := by
  have h := row_of_encodeW0 (d := encodeDesc (.chInfo u d)) rfl
  delta Statement opcodeRow
  rw [h.1, h.2.1, h.2.2]
  rfl

theorem firCfg (u mode : Nib) (a n m : Word) : Statement (.firCfg u mode a n m) := by
  have h := row_of_encodeW0 (d := encodeDesc (.firCfg u mode a n m)) rfl
  delta Statement opcodeRow
  rw [h.1, h.2.1, h.2.2]
  rfl

theorem firRun (u : Nib) (a d n : Word) : Statement (.firRun u a d n) := by
  have h := row_of_encodeW0 (d := encodeDesc (.firRun u a d n)) rfl
  delta Statement opcodeRow
  rw [h.1, h.2.1, h.2.2]
  rfl

theorem firGenlp (mode : Nib) (d n : Word) (k0 : F64) : Statement (.firGenlp mode d n k0) := by
  have h := row_of_encodeW0 (d := encodeDesc (.firGenlp mode d n k0)) rfl
  delta Statement opcodeRow
  rw [h.1, h.2.1, h.2.2]
  rfl

theorem firGenhp (mode : Nib) (d n : Word) (k0 : F64) : Statement (.firGenhp mode d n k0) := by
  have h := row_of_encodeW0 (d := encodeDesc (.firGenhp mode d n k0)) rfl
  delta Statement opcodeRow
  rw [h.1, h.2.1, h.2.2]
  rfl

theorem firGenbs (mode : Nib) (d n : Word) (k0 k1 : F64) : Statement (.firGenbs mode d n k0 k1) := by
  have h := row_of_encodeW0 (d := encodeDesc (.firGenbs mode d n k0 k1)) rfl
  delta Statement opcodeRow
  rw [h.1, h.2.1, h.2.2]
  rfl

theorem firGenbp (mode : Nib) (d n : Word) (k0 k1 : F64) : Statement (.firGenbp mode d n k0 k1) := by
  have h := row_of_encodeW0 (d := encodeDesc (.firGenbp mode d n k0 k1)) rfl
  delta Statement opcodeRow
  rw [h.1, h.2.1, h.2.2]
  rfl

theorem firInvert (a d n : Word) : Statement (.firInvert a d n) := by
  have h := row_of_encodeW0 (d := encodeDesc (.firInvert a d n)) rfl
  delta Statement opcodeRow
  rw [h.1, h.2.1, h.2.2]
  rfl

theorem firReverse (a d n : Word) : Statement (.firReverse a d n) := by
  have h := row_of_encodeW0 (d := encodeDesc (.firReverse a d n)) rfl
  delta Statement opcodeRow
  rw [h.1, h.2.1, h.2.2]
  rfl

theorem iirCfg (u mode : Nib) (a n : Word) : Statement (.iirCfg u mode a n) := by
  have h := row_of_encodeW0 (d := encodeDesc (.iirCfg u mode a n)) rfl
  delta Statement opcodeRow
  rw [h.1, h.2.1, h.2.2]
  rfl

theorem iirRun (u : Nib) (a d n : Word) : Statement (.iirRun u a d n) := by
  have h := row_of_encodeW0 (d := encodeDesc (.iirRun u a d n)) rfl
  delta Statement opcodeRow
  rw [h.1, h.2.1, h.2.2]
  rfl

theorem iirClr (u : Nib) : Statement (.iirClr u) := by
  have h := row_of_encodeW0 (d := encodeDesc (.iirClr u)) rfl
  delta Statement opcodeRow
  rw [h.1, h.2.1, h.2.2]
  rfl

theorem gzCfg (u mode : Nib) (n m p : Word) (k0 k1 k2 : F64) : Statement (.gzCfg u mode n m p k0 k1 k2) := by
  have h := row_of_encodeW0 (d := encodeDesc (.gzCfg u mode n m p k0 k1 k2)) rfl
  delta Statement opcodeRow
  rw [h.1, h.2.1, h.2.2]
  rfl

theorem gzRun (u : Nib) (a d n : Word) : Statement (.gzRun u a d n) := by
  have h := row_of_encodeW0 (d := encodeDesc (.gzRun u a d n)) rfl
  delta Statement opcodeRow
  rw [h.1, h.2.1, h.2.2]
  rfl

theorem ncoCfg (u : Nib) (k0 k1 k2 : F64) : Statement (.ncoCfg u k0 k1 k2) := by
  have h := row_of_encodeW0 (d := encodeDesc (.ncoCfg u k0 k1 k2)) rfl
  delta Statement opcodeRow
  rw [h.1, h.2.1, h.2.2]
  rfl

theorem ncoFreq (u : Nib) (k0 : F64) : Statement (.ncoFreq u k0) := by
  have h := row_of_encodeW0 (d := encodeDesc (.ncoFreq u k0)) rfl
  delta Statement opcodeRow
  rw [h.1, h.2.1, h.2.2]
  rfl

theorem ncoMix (u : Nib) (a d n : Word) : Statement (.ncoMix u a d n) := by
  have h := row_of_encodeW0 (d := encodeDesc (.ncoMix u a d n)) rfl
  delta Statement opcodeRow
  rw [h.1, h.2.1, h.2.2]
  rfl

end Sys2Proof.Laws.Encoding
end

