-- ==== Sys2Proof/Laws/Records.lean ====
section
/-! SUPPORT. Laws of the record forms (R313, R318, R396): the canonical form, the bytes outside a record, and the
fields read back from it. -/

namespace Sys2Proof.Machine

theorem rdR_wrU_disjoint {m : Memory} (h : m.wf = true) {a b v : Nat} (hd : b + 8 ≤ a ∨ a + 4 ≤ b) :
    rdR (wrU m a v) b = rdR m b :=
  rdR_congr fun x _ _ => readByte_wrU_outside h (by omega)

theorem memRead_wrU_disjoint {m : Memory} (h : m.wf = true) {a b v : Nat} (hd : b + 4 ≤ a ∨ a + 4 ≤ b) :
    memRead (wrU m a v) b 4 = memRead m b 4 :=
  memRead_congr fun x _ _ => readByte_wrU_outside h (by omega)

/-! ## A binary64 and two words: the report record and the stage record -/

/-- A 16-byte record of a binary64 and two words. -/
def wrRecord16 (m : Memory) (d : Nat) (x : F64) (u v : Nat) : Memory := wrU (wrU (wrR m d x) (d + 8) u) (d + 12) v

theorem writeReport_eq (m : Memory) (d : Nat) (c : Chain) :
    writeReport m d c = wrRecord16 m d c.achieved c.nstages (if c.trunc then 1 else 0) := rfl

theorem writeStageRecord_eq (m : Memory) (d : Nat) (g : Stage) :
    writeStageRecord m d g = wrRecord16 m d g.rateIn g.design.val (decimNat g.decim) := rfl

theorem wf_wrRecord16 {m : Memory} (h : m.wf = true) (d : Nat) (x : F64) (u v : Nat) :
    (wrRecord16 m d x u v).wf = true :=
  wf_wrU (wf_wrU (wf_wrR h _ _) _ _) _ _

theorem inDmem_wrRecord16 {m : Memory} (h : m.inDmem = true) {d : Nat} (x : F64) (u v : Nat)
    (hd : d + 16 ≤ Config.dmemBytes) : (wrRecord16 m d x u v).inDmem = true :=
  inDmem_wrU (inDmem_wrU (inDmem_wrR h _ (by omega)) _ (by omega)) _ (by omega)

theorem readByte_wrRecord16_outside {m : Memory} (h : m.wf = true) {d y : Nat} {x : F64} {u v : Nat}
    (hy : y < d ∨ d + 16 ≤ y) : readByte (wrRecord16 m d x u v) y = readByte m y := by
  rw [wrRecord16, readByte_wrU_outside (wf_wrU (wf_wrR h _ _) _ _) (by omega),
    readByte_wrU_outside (wf_wrR h _ _) (by omega), readByte_wrR_outside h (by omega)]

/-- The three fields of a stored 16-byte record. -/
theorem read_wrRecord16 {m : Memory} (h : m.wf = true) (d : Nat) (x : F64) (u v : Nat) :
    rdR (wrRecord16 m d x u v) d = x ∧ memRead (wrRecord16 m d x u v) (d + 8) 4 = u % 2 ^ 32 ∧
      memRead (wrRecord16 m d x u v) (d + 12) 4 = v % 2 ^ 32 := by
  have h1 := wf_wrR h d x
  have h2 := wf_wrU h1 (d + 8) u
  refine ⟨?_, ?_, memRead_wrU h2 _ _⟩
  · rw [wrRecord16, rdR_wrU_disjoint h2 (by omega), rdR_wrU_disjoint h1 (by omega), rdR_wrR h]
  · rw [wrRecord16, memRead_wrU_disjoint h2 (by omega), memRead_wrU h1]

theorem wf_writeStageRecords {m : Memory} (h : m.wf = true) (d : Nat) (gs : List Stage) :
    (writeStageRecords m d gs).wf = true := by
  induction gs generalizing m d with
  | nil => exact h
  | cons g gs ih =>
    rw [writeStageRecords, writeStageRecord_eq]
    exact ih (wf_wrRecord16 h d _ _ _) (d + 16)

theorem inDmem_writeStageRecords {m : Memory} (h : m.inDmem = true) {d : Nat} {gs : List Stage}
    (hd : gs = [] ∨ d + 16 * gs.length ≤ Config.dmemBytes) : (writeStageRecords m d gs).inDmem = true := by
  induction gs generalizing m d with
  | nil => exact h
  | cons g gs ih =>
    have hl : d + 16 * gs.length + 16 ≤ Config.dmemBytes := by
      rcases hd with hd | hd
      · cases hd
      · simp only [List.length_cons] at hd
        omega
    rw [writeStageRecords, writeStageRecord_eq]
    exact ih (inDmem_wrRecord16 h _ _ _ (by omega)) (Or.inr (by omega))

theorem readByte_writeStageRecords_outside {m : Memory} (h : m.wf = true) {d x : Nat} {gs : List Stage}
    (hx : x < d ∨ d + 16 * gs.length ≤ x) : readByte (writeStageRecords m d gs) x = readByte m x := by
  induction gs generalizing m d with
  | nil => rfl
  | cons g gs ih =>
    simp only [List.length_cons] at hx
    have hw : (writeStageRecord m d g).wf = true := wf_wrRecord16 h d _ _ _
    rw [writeStageRecords, ih hw (by omega), writeStageRecord_eq, readByte_wrRecord16_outside h (by omega)]

/-- The bytes of the `s`-th stage record are those the record alone leaves. -/
theorem read_writeStageRecords {m : Memory} (h : m.wf = true) (d : Nat) (gs : List Stage) {s : Nat}
    (hs : s < gs.length) :
    rdR (writeStageRecords m d gs) (d + 16 * s) = gs[s].rateIn ∧
      memRead (writeStageRecords m d gs) (d + 16 * s + 8) 4 = gs[s].design.val % 2 ^ 32 ∧
        memRead (writeStageRecords m d gs) (d + 16 * s + 12) 4 = decimNat gs[s].decim % 2 ^ 32 := by
  induction gs generalizing m d s with
  | nil => simp at hs
  | cons g gs ih =>
    rw [writeStageRecords]
    have hw : (writeStageRecord m d g).wf = true := wf_wrRecord16 h d _ _ _
    cases s with
    | zero =>
      have r := read_wrRecord16 h d g.rateIn g.design.val (decimNat g.decim)
      rw [← writeStageRecord_eq] at r
      simp only [Nat.mul_zero, Nat.add_zero, List.getElem_cons_zero]
      refine ⟨?_, ?_, ?_⟩
      · rw [← r.1]
        exact rdR_congr fun x h1 h2 => readByte_writeStageRecords_outside hw (by omega)
      · rw [← r.2.1]
        exact memRead_congr fun x h1 h2 => readByte_writeStageRecords_outside hw (by omega)
      · rw [← r.2.2]
        exact memRead_congr fun x h1 h2 => readByte_writeStageRecords_outside hw (by omega)
    | succ s =>
      rw [show d + 16 * (s + 1) = d + 16 + 16 * s by omega]
      simpa using ih hw (d + 16) (by simpa using hs)

/-! ## The detector's record -/

/-- A 32-byte record of three binary64 values and two words. -/
def wrRecord32 (m : Memory) (d : Nat) (x y z : F64) (u v : Nat) : Memory :=
  wrU (wrU (wrR (wrR (wrR m d x) (d + 8) y) (d + 16) z) (d + 24) u) (d + 28) v

theorem writeGzRecord_eq (m : Memory) (d : Nat) (r : GzRecord) :
    writeGzRecord m d r = wrRecord32 m d r.pc r.plo r.phi (if r.bit then 1 else 0) 0 := rfl

theorem wf_wrRecord32 {m : Memory} (h : m.wf = true) (d : Nat) (x y z : F64) (u v : Nat) :
    (wrRecord32 m d x y z u v).wf = true :=
  wf_wrU (wf_wrU (wf_wrR (wf_wrR (wf_wrR h _ _) _ _) _ _) _ _) _ _

theorem inDmem_wrRecord32 {m : Memory} (h : m.inDmem = true) {d : Nat} (x y z : F64) (u v : Nat)
    (hd : d + 32 ≤ Config.dmemBytes) : (wrRecord32 m d x y z u v).inDmem = true :=
  inDmem_wrU (inDmem_wrU (inDmem_wrR (inDmem_wrR (inDmem_wrR h _ (by omega)) _ (by omega)) _ (by omega)) _
    (by omega)) _ (by omega)

theorem readByte_wrRecord32_outside {m : Memory} (h : m.wf = true) {d a : Nat} {x y z : F64} {u v : Nat}
    (ha : a < d ∨ d + 32 ≤ a) : readByte (wrRecord32 m d x y z u v) a = readByte m a := by
  have h1 := wf_wrR h d x
  have h2 := wf_wrR h1 (d + 8) y
  have h3 := wf_wrR h2 (d + 16) z
  have h4 := wf_wrU h3 (d + 24) u
  rw [wrRecord32, readByte_wrU_outside h4 (by omega), readByte_wrU_outside h3 (by omega),
    readByte_wrR_outside h2 (by omega), readByte_wrR_outside h1 (by omega), readByte_wrR_outside h (by omega)]

/-- The fields of a stored 32-byte record. -/
theorem read_wrRecord32 {m : Memory} (h : m.wf = true) (d : Nat) (x y z : F64) (u v : Nat) :
    rdR (wrRecord32 m d x y z u v) d = x ∧ rdR (wrRecord32 m d x y z u v) (d + 8) = y ∧
      rdR (wrRecord32 m d x y z u v) (d + 16) = z ∧
        memRead (wrRecord32 m d x y z u v) (d + 24) 4 = u % 2 ^ 32 ∧
          memRead (wrRecord32 m d x y z u v) (d + 28) 4 = v % 2 ^ 32 := by
  have h1 := wf_wrR h d x
  have h2 := wf_wrR h1 (d + 8) y
  have h3 := wf_wrR h2 (d + 16) z
  have h4 := wf_wrU h3 (d + 24) u
  refine ⟨?_, ?_, ?_, ?_, memRead_wrU h4 (d + 28) v⟩
  · rw [wrRecord32, rdR_wrU_disjoint h4 (by omega), rdR_wrU_disjoint h3 (by omega),
      rdR_wrR_disjoint h2 z (by omega), rdR_wrR_disjoint h1 y (by omega), rdR_wrR h]
  · rw [wrRecord32, rdR_wrU_disjoint h4 (by omega), rdR_wrU_disjoint h3 (by omega),
      rdR_wrR_disjoint h2 z (by omega), rdR_wrR h1]
  · rw [wrRecord32, rdR_wrU_disjoint h4 (by omega), rdR_wrU_disjoint h3 (by omega), rdR_wrR h2]
  · rw [wrRecord32, memRead_wrU_disjoint h4 (by omega), memRead_wrU h3]

theorem wf_writeGzRecord {m : Memory} (h : m.wf = true) (d : Nat) (r : GzRecord) :
    (writeGzRecord m d r).wf = true :=
  wf_wrRecord32 h d r.pc r.plo r.phi _ 0

theorem inDmem_writeGzRecord {m : Memory} (h : m.inDmem = true) {d : Nat} (r : GzRecord)
    (hd : d + 32 ≤ Config.dmemBytes) : (writeGzRecord m d r).inDmem = true :=
  inDmem_wrRecord32 h r.pc r.plo r.phi _ 0 hd

theorem readByte_writeGzRecord_outside {m : Memory} (h : m.wf = true) {d x : Nat} {r : GzRecord}
    (hx : x < d ∨ d + 32 ≤ x) : readByte (writeGzRecord m d r) x = readByte m x := by
  rw [writeGzRecord_eq, readByte_wrRecord32_outside h hx]

/-- The fields of a stored detector record. -/
theorem read_writeGzRecord {m : Memory} (h : m.wf = true) (d : Nat) (r : GzRecord) :
    rdR (writeGzRecord m d r) d = r.pc ∧ rdR (writeGzRecord m d r) (d + 8) = r.plo ∧
      rdR (writeGzRecord m d r) (d + 16) = r.phi ∧
        memRead (writeGzRecord m d r) (d + 24) 4 = (if r.bit then 1 else 0) ∧
          memRead (writeGzRecord m d r) (d + 28) 4 = 0 := by
  rw [writeGzRecord_eq]
  obtain ⟨q1, q2, q3, q4, q5⟩ := read_wrRecord32 h d r.pc r.plo r.phi (if r.bit then 1 else 0) 0
  refine ⟨q1, q2, q3, ?_, q5⟩
  rw [q4]
  cases r.bit <;> rfl

theorem wf_writeGzRecords {m : Memory} (h : m.wf = true) (d : Nat) (rs : List GzRecord) :
    (writeGzRecords m d rs).wf = true := by
  induction rs generalizing m d with
  | nil => exact h
  | cons r rs ih =>
    rw [writeGzRecords]
    exact ih (wf_writeGzRecord h d r) (d + 32)

theorem inDmem_writeGzRecords {m : Memory} (h : m.inDmem = true) {d : Nat} {rs : List GzRecord}
    (hd : rs = [] ∨ d + 32 * rs.length ≤ Config.dmemBytes) : (writeGzRecords m d rs).inDmem = true := by
  induction rs generalizing m d with
  | nil => exact h
  | cons r rs ih =>
    have hl : d + 32 * rs.length + 32 ≤ Config.dmemBytes := by
      rcases hd with hd | hd
      · cases hd
      · simp only [List.length_cons] at hd
        omega
    rw [writeGzRecords]
    exact ih (inDmem_writeGzRecord h r (by omega)) (Or.inr (by omega))

theorem readByte_writeGzRecords_outside {m : Memory} (h : m.wf = true) {d x : Nat} {rs : List GzRecord}
    (hx : x < d ∨ d + 32 * rs.length ≤ x) : readByte (writeGzRecords m d rs) x = readByte m x := by
  induction rs generalizing m d with
  | nil => rfl
  | cons r rs ih =>
    simp only [List.length_cons] at hx
    rw [writeGzRecords, ih (wf_writeGzRecord h _ _) (by omega), readByte_writeGzRecord_outside h (by omega)]

/-- The fields of the `k`-th stored detector record. -/
theorem read_writeGzRecords {m : Memory} (h : m.wf = true) (d : Nat) (rs : List GzRecord) {k : Nat}
    (hk : k < rs.length) :
    rdR (writeGzRecords m d rs) (d + 32 * k) = rs[k].pc ∧ rdR (writeGzRecords m d rs) (d + 32 * k + 8) = rs[k].plo ∧
      rdR (writeGzRecords m d rs) (d + 32 * k + 16) = rs[k].phi ∧
        memRead (writeGzRecords m d rs) (d + 32 * k + 24) 4 = (if rs[k].bit then 1 else 0) ∧
          memRead (writeGzRecords m d rs) (d + 32 * k + 28) 4 = 0 := by
  induction rs generalizing m d k with
  | nil => simp at hk
  | cons r rs ih =>
    rw [writeGzRecords]
    have hw : (writeGzRecord m d r).wf = true := wf_writeGzRecord h d r
    cases k with
    | zero =>
      have q := read_writeGzRecord h d r
      simp only [Nat.mul_zero, Nat.add_zero, List.getElem_cons_zero]
      refine ⟨?_, ?_, ?_, ?_, ?_⟩
      · rw [← q.1]
        exact rdR_congr fun x h1 h2 => readByte_writeGzRecords_outside hw (by omega)
      · rw [← q.2.1]
        exact rdR_congr fun x h1 h2 => readByte_writeGzRecords_outside hw (by omega)
      · rw [← q.2.2.1]
        exact rdR_congr fun x h1 h2 => readByte_writeGzRecords_outside hw (by omega)
      · rw [← q.2.2.2.1]
        exact memRead_congr fun x h1 h2 => readByte_writeGzRecords_outside hw (by omega)
      · rw [← q.2.2.2.2]
        exact memRead_congr fun x h1 h2 => readByte_writeGzRecords_outside hw (by omega)
    | succ k =>
      rw [show d + 32 * (k + 1) = d + 32 + 32 * k by omega]
      simpa using ih hw (d + 32) (by simpa using hk)

end Sys2Proof.Machine
end

