-- ==== Sys2Proof/Tests/Slice0.lean ====
section
/-! SUPPORT. Tests: ill-formed terms are refused, every command decodes from a word written out from R141 and R144, one
or two vectors of spec/95_test_vectors.md for each command, and for each statement of the certificates a state and
operands that meet its hypotheses. Expected values are those of the spec's vectors. -/

-- The theorems below are checked one after another, which keeps the memory of a run small.
set_option Elab.async false

namespace Sys2Proof.Tests
open Sys2Proof.Machine

/-! ## Helpers -/

/-- A state running at address 0 with binary64 arrays stored in DMEM. -/
def loaded (data : List (Nat × List F64)) : State :=
  startRun (State.reset.setDmem (data.foldl (fun m c => writeReals m c.1 c.2) []))

/-- The state an outcome goes on in. -/
def goesOn : Result → Option State
  | .next t => some t
  | .fault _ => none
  | .refused _ => none

/-- One command. -/
def ran (i : Instr) (s : State) : Option State := goesOn (exec i s)

/-- One step. -/
def stepped (s : State) : Option State := goesOn (step s)

/-- The fault registers. -/
def faultOf (o : Option State) : Option (Cause × Word) := o.map fun t => (t.cause, t.faultInfo)

/-! ## Ill-formed terms (R143, R144; 90_conflicts.md C9) -/

/-- HB.CFG: A and N outside mode 1, M outside mode 0, K0 in mode 0 and in an unlisted mode. -/
theorem test_illFormed_hbCfg :
    [wellFormed (.hbCfg 0 0 8 0 0 2 0), wellFormed (.hbCfg 0 2 8 0 0 2 0), wellFormed (.hbCfg 0 0 0 3 0 2 0),
      wellFormed (.hbCfg 0 2 0 3 0 2 0), wellFormed (.hbCfg 0 1 0 3 1 2 0), wellFormed (.hbCfg 0 2 0 0 1 2 0),
      wellFormed (.hbCfg 0 0 0 0 0 2 1), wellFormed (.hbCfg 0 3 0 0 0 2 1)] = List.replicate 8 false := by decide

/-- GZ.CFG: M and K2 in mode 0 and in an unlisted mode. -/
theorem test_illFormed_gzCfg :
    [wellFormed (.gzCfg 0 0 4 1 0 0 1 0), wellFormed (.gzCfg 0 0 4 0 0 0 1 1), wellFormed (.gzCfg 0 3 4 1 0 0 1 0),
      wellFormed (.gzCfg 0 3 4 0 0 0 1 1)] = List.replicate 4 false := by decide

/-! ## Decoding: a word for every command

Each word is written from the field table R141 and the row of R144: OPC, UNIT and MODE in the lowest eight digits, then
A, B, D, N, M, P, the reserved word and the halves of K0, K1, K2. -/

theorem test_decode_nop : decodeTableWord 32
    0x00000000
      = some (.nop) := by decide +kernel

theorem test_decode_halt : decodeTableWord 32
    0x00000001
      = some (.halt) := by decide +kernel

theorem test_decode_jump : decodeTableWord 64
    0xA1B2C3D0_00000002
      = some (.jump 0xa1b2c3d0) := by decide +kernel

theorem test_decode_lset : decodeTableWord 160
    0x80000003_00000000_00000000_00000000_00000003
      = some (.lset 0x80000003) := by decide +kernel

theorem test_decode_loop : decodeTableWord 64
    0xA1B2C3D0_00000004
      = some (.loop 0xa1b2c3d0) := by decide +kernel

theorem test_decode_signal : decodeTableWord 32
    0x00000005
      = some (.signal) := by decide +kernel

theorem test_decode_vadd : decodeTableWord 160
    0x80000003_D0E0F0C1_B0B1B2B3_A1B2C3D0_00000010
      = some (.vadd 0xa1b2c3d0 0xb0b1b2b3 0xd0e0f0c1 0x80000003) := by decide +kernel

theorem test_decode_vsub : decodeTableWord 160
    0x80000003_D0E0F0C1_B0B1B2B3_A1B2C3D0_00000011
      = some (.vsub 0xa1b2c3d0 0xb0b1b2b3 0xd0e0f0c1 0x80000003) := by decide +kernel

theorem test_decode_vmul : decodeTableWord 160
    0x80000003_D0E0F0C1_B0B1B2B3_A1B2C3D0_00000012
      = some (.vmul 0xa1b2c3d0 0xb0b1b2b3 0xd0e0f0c1 0x80000003) := by decide +kernel

theorem test_decode_vdiv : decodeTableWord 160
    0x80000003_D0E0F0C1_B0B1B2B3_A1B2C3D0_00000013
      = some (.vdiv 0xa1b2c3d0 0xb0b1b2b3 0xd0e0f0c1 0x80000003) := by decide +kernel

theorem test_decode_vscale : decodeTableWord 320
    0xBFF00000_00000001_00000000_00000000_00000000_80000003_D0E0F0C1_00000000_A1B2C3D0_00000014
      = some (.vscale 0xa1b2c3d0 0xd0e0f0c1 0x80000003 0xbff0000000000001) := by decide +kernel

theorem test_decode_vconj : decodeTableWord 160
    0x80000003_D0E0F0C1_00000000_A1B2C3D0_00000015
      = some (.vconj 0xa1b2c3d0 0xd0e0f0c1 0x80000003) := by decide +kernel

theorem test_decode_vmag : decodeTableWord 160
    0x80000003_D0E0F0C1_00000000_A1B2C3D0_00000016
      = some (.vmag 0xa1b2c3d0 0xd0e0f0c1 0x80000003) := by decide +kernel

theorem test_decode_vsqmag : decodeTableWord 160
    0x80000003_D0E0F0C1_00000000_A1B2C3D0_00000017
      = some (.vsqmag 0xa1b2c3d0 0xd0e0f0c1 0x80000003) := by decide +kernel

theorem test_decode_vpolar : decodeTableWord 160
    0x80000003_D0E0F0C1_00000000_A1B2C3D0_00000018
      = some (.vpolar 0xa1b2c3d0 0xd0e0f0c1 0x80000003) := by decide +kernel

theorem test_decode_vrect : decodeTableWord 160
    0x80000003_D0E0F0C1_00000000_A1B2C3D0_00000019
      = some (.vrect 0xa1b2c3d0 0xd0e0f0c1 0x80000003) := by decide +kernel

theorem test_decode_vclear : decodeTableWord 160
    0x80000003_D0E0F0C1_00000000_00000000_0000001A
      = some (.vclear 0xd0e0f0c1 0x80000003) := by decide +kernel

theorem test_decode_vcopy : decodeTableWord 160
    0x80000003_D0E0F0C1_00000000_A1B2C3D0_0000001B
      = some (.vcopy 0xa1b2c3d0 0xd0e0f0c1 0x80000003) := by decide +kernel

theorem test_decode_vdecim : decodeTableWord 192
    0x00F00005_80000003_D0E0F0C1_00000000_A1B2C3D0_0000001C
      = some (.vdecim 0xa1b2c3d0 0xd0e0f0c1 0x80000003 0xf00005) := by decide +kernel

theorem test_decode_vnormsqr : decodeTableWord 160
    0x80000003_D0E0F0C1_00000000_A1B2C3D0_00000020
      = some (.vnormsqr 0xa1b2c3d0 0xd0e0f0c1 0x80000003) := by decide +kernel

theorem test_decode_vnorm : decodeTableWord 160
    0x80000003_D0E0F0C1_00000000_A1B2C3D0_00000021
      = some (.vnorm 0xa1b2c3d0 0xd0e0f0c1 0x80000003) := by decide +kernel

theorem test_decode_vpeak : decodeTableWord 160
    0x80000003_D0E0F0C1_00000000_A1B2C3D0_00000022
      = some (.vpeak 0xa1b2c3d0 0xd0e0f0c1 0x80000003) := by decide +kernel

theorem test_decode_vpeakpwr : decodeTableWord 160
    0x80000003_D0E0F0C1_00000000_A1B2C3D0_00000023
      = some (.vpeakpwr 0xa1b2c3d0 0xd0e0f0c1 0x80000003) := by decide +kernel

theorem test_decode_dlCfg : decodeTableWord 192
    0x00F00005_80000003_00000000_00000000_00000000_00000E30
      = some (.dlCfg 0xe 0x80000003 0xf00005) := by decide +kernel

theorem test_decode_dlPush : decodeTableWord 160
    0x80000003_00000000_00000000_A1B2C3D0_00000E31
      = some (.dlPush 0xe 0xa1b2c3d0 0x80000003) := by decide +kernel

theorem test_decode_dlTap : decodeTableWord 192
    0x00F00005_00000000_D0E0F0C1_00000000_00000000_00000E32
      = some (.dlTap 0xe 0xd0e0f0c1 0xf00005) := by decide +kernel

theorem test_decode_dlMac : decodeTableWord 160
    0x80000003_D0E0F0C1_00000000_A1B2C3D0_00000E33
      = some (.dlMac 0xe 0xa1b2c3d0 0xd0e0f0c1 0x80000003) := by decide +kernel

theorem test_decode_hbCfg : decodeTableWord 320
    0xBFF00000_00000001_00000000_FFFFFFFE_00000000_80000003_00000000_00000000_A1B2C3D0_00001E40
      = some (.hbCfg 0xe 1 0xa1b2c3d0 0x80000003 0 0xfffffffe 0xbff0000000000001) := by decide +kernel

theorem test_decode_hbRun : decodeTableWord 160
    0x80000003_D0E0F0C1_00000000_A1B2C3D0_00000E41
      = some (.hbRun 0xe 0xa1b2c3d0 0xd0e0f0c1 0x80000003) := by decide +kernel

theorem test_decode_chBuild : decodeTableWord 224
    0xFFFFFFFE_00F00005_80000003_D0E0F0C1_00000000_00000000_00000E50
      = some (.chBuild 0xe 0xd0e0f0c1 0x80000003 0xf00005 0xfffffffe) := by decide +kernel

theorem test_decode_chProc : decodeTableWord 160
    0x80000003_D0E0F0C1_00000000_A1B2C3D0_00000E51
      = some (.chProc 0xe 0xa1b2c3d0 0xd0e0f0c1 0x80000003) := by decide +kernel

theorem test_decode_chInfo : decodeTableWord 128
    0xD0E0F0C1_00000000_00000000_00000E52
      = some (.chInfo 0xe 0xd0e0f0c1) := by decide +kernel

theorem test_decode_firCfg : decodeTableWord 192
    0x00F00005_80000003_00000000_00000000_A1B2C3D0_00009E60
      = some (.firCfg 0xe 9 0xa1b2c3d0 0x80000003 0xf00005) := by decide +kernel

theorem test_decode_firRun : decodeTableWord 160
    0x80000003_D0E0F0C1_00000000_A1B2C3D0_00000E61
      = some (.firRun 0xe 0xa1b2c3d0 0xd0e0f0c1 0x80000003) := by decide +kernel

theorem test_decode_firGenlp : decodeTableWord 320
    0xBFF00000_00000001_00000000_00000000_00000000_80000003_D0E0F0C1_00000000_00000000_00009062
      = some (.firGenlp 9 0xd0e0f0c1 0x80000003 0xbff0000000000001) := by decide +kernel

theorem test_decode_firGenhp : decodeTableWord 320
    0xBFF00000_00000001_00000000_00000000_00000000_80000003_D0E0F0C1_00000000_00000000_00009063
      = some (.firGenhp 9 0xd0e0f0c1 0x80000003 0xbff0000000000001) := by decide +kernel

theorem test_decode_firGenbs : decodeTableWord 384
    0x40977000_00000002_BFF00000_00000001_00000000_00000000_00000000_80000003_D0E0F0C1_00000000_00000000_00009064
      = some (.firGenbs 9 0xd0e0f0c1 0x80000003 0xbff0000000000001 0x4097700000000002) := by decide +kernel

theorem test_decode_firGenbp : decodeTableWord 384
    0x40977000_00000002_BFF00000_00000001_00000000_00000000_00000000_80000003_D0E0F0C1_00000000_00000000_00009065
      = some (.firGenbp 9 0xd0e0f0c1 0x80000003 0xbff0000000000001 0x4097700000000002) := by decide +kernel

theorem test_decode_firInvert : decodeTableWord 160
    0x80000003_D0E0F0C1_00000000_A1B2C3D0_00000066
      = some (.firInvert 0xa1b2c3d0 0xd0e0f0c1 0x80000003) := by decide +kernel

theorem test_decode_firReverse : decodeTableWord 160
    0x80000003_D0E0F0C1_00000000_A1B2C3D0_00000067
      = some (.firReverse 0xa1b2c3d0 0xd0e0f0c1 0x80000003) := by decide +kernel

theorem test_decode_iirCfg : decodeTableWord 160
    0x80000003_00000000_00000000_A1B2C3D0_00009E70
      = some (.iirCfg 0xe 9 0xa1b2c3d0 0x80000003) := by decide +kernel

theorem test_decode_iirRun : decodeTableWord 160
    0x80000003_D0E0F0C1_00000000_A1B2C3D0_00000E71
      = some (.iirRun 0xe 0xa1b2c3d0 0xd0e0f0c1 0x80000003) := by decide +kernel

theorem test_decode_iirClr : decodeTableWord 32
    0x00000E72
      = some (.iirClr 0xe) := by decide +kernel

theorem test_decode_gzCfg : decodeTableWord 448
    0x7FF80000_00000003_40977000_00000002_BFF00000_00000001_00000000_FFFFFFFE_00F00005_80000003_00000000_00000000_00000000_00002E80
      = some (.gzCfg 0xe 2 0x80000003 0xf00005 0xfffffffe 0xbff0000000000001 0x4097700000000002 0x7ff8000000000003) := by decide +kernel

theorem test_decode_gzRun : decodeTableWord 160
    0x80000003_D0E0F0C1_00000000_A1B2C3D0_00000E81
      = some (.gzRun 0xe 0xa1b2c3d0 0xd0e0f0c1 0x80000003) := by decide +kernel

theorem test_decode_ncoCfg : decodeTableWord 448
    0x7FF80000_00000003_40977000_00000002_BFF00000_00000001_00000000_00000000_00000000_00000000_00000000_00000000_00000000_00000E90
      = some (.ncoCfg 0xe 0xbff0000000000001 0x4097700000000002 0x7ff8000000000003) := by decide +kernel

theorem test_decode_ncoFreq : decodeTableWord 320
    0xBFF00000_00000001_00000000_00000000_00000000_00000000_00000000_00000000_00000000_00000E91
      = some (.ncoFreq 0xe 0xbff0000000000001) := by decide +kernel

theorem test_decode_ncoMix : decodeTableWord 160
    0x80000003_D0E0F0C1_00000000_A1B2C3D0_00000E92
      = some (.ncoMix 0xe 0xa1b2c3d0 0xd0e0f0c1 0x80000003) := by decide +kernel

/-- TK11-TK15, TH14, TG9, TX7: a descriptor that decodes to no command. -/
theorem test_decode_faults :
    [decode { zeroDesc with w0 := 0x00010000 }, decode { zeroDesc with w7 := 1 },
      decode { zeroDesc with k0 := 0x3FF0000000000000 }, decode { zeroDesc with w0 := 0x6 },
      decode { zeroDesc with w0 := 0x106 }, decode { zeroDesc with w0 := 0x40, p := 2, k0 := 0x3FF0000000000000 },
      decode { zeroDesc with w0 := 0x80, n := 4, m := 1, k1 := 0x40BF400000000000 },
      decode { zeroDesc with w0 := 0xF41, w7 := 1 }] =
    [.reservedNonzero 0, .reservedNonzero 7, .reservedNonzero 8, .illegalOpcode 0x6, .illegalOpcode 0x106,
      .reservedNonzero 8, .reservedNonzero 5, .reservedNonzero 7] := by decide +kernel

/-! ## One step: vectors of spec/95_test_vectors.md -/

/-- TK1. -/
theorem test_nop :
    (ran .nop { loaded [] with cp := 0x40 }).map (fun t => (t.cp, t.retired)) = some (0x80, 1) := by decide +kernel

/-- TK2. -/
theorem test_halt :
    (ran .halt { loaded [] with cp := 0x100 }).map (fun t => (t.cp, statusWord t.status, irqWord t.irqPend)) =
      some (0x140, 4, 1) := by decide +kernel

/-- TK3, TK4: a jump to a target off any boundary completes and the fetch faults. -/
theorem test_jump :
    (ran (.jump 0x44) { loaded [] with cp := 0x200 }).map (fun t => (t.cp, t.retired,
        (stepped t).map fun x => (causeWord x.cause, x.faultCp, x.faultInfo, x.cp, x.retired))) =
      some (0x44, 1, some (1, 0x44, 0x44, 0x44, 1)) := by decide +kernel

/-- P1. -/
theorem test_lset :
    (ran (.lset 3) (loaded [])).map (fun t => (t.lc, t.cp)) = some (3, 0x40) := by decide +kernel

/-- TK7, TK8, TK9. -/
theorem test_loop :
    ([0, 1, 5].map fun c => (ran (.loop 0x1000) { loaded [] with lc := c }).map fun t => (t.lc, t.cp)) =
      [some (0, 0x40), some (0, 0x40), some (4, 0x1000)] := by decide +kernel

/-- TK10. -/
theorem test_signal :
    (ran .signal (loaded [])).map (fun t => (irqWord t.irqPend, t.status.busy)) = some (4, true) := by decide +kernel

/-- TV1. -/
theorem test_vadd :
    (ran (.vadd 0x200 0x210 0x300 1) (loaded [(0x200, [0x3FF0000000000000, 0x4000000000000000]), (0x210, [0x4008000000000000, 0x4010000000000000])])).map (fun t => readCpxs t.dmem 0x300 1) =
      some [⟨0x4010000000000000, 0x4018000000000000⟩] := by decide +kernel

/-- TV2. -/
theorem test_vsub :
    (ran (.vsub 0x200 0x210 0x300 1) (loaded [(0x200, [0x3FF0000000000000, 0x4000000000000000]), (0x210, [0x4008000000000000, 0x4010000000000000])])).map (fun t => readCpxs t.dmem 0x300 1) =
      some [⟨0xC000000000000000, 0xC000000000000000⟩] := by decide +kernel

/-- TV3. -/
theorem test_vmul :
    (ran (.vmul 0x200 0x210 0x300 1) (loaded [(0x200, [0x3FF0000000000000, 0x4000000000000000]), (0x210, [0x4008000000000000, 0x4010000000000000])])).map (fun t => readCpxs t.dmem 0x300 1) =
      some [⟨0xC014000000000000, 0x4024000000000000⟩] := by decide +kernel

/-- TV4, TV5, TV6. -/
theorem test_vdiv :
    (ran (.vdiv 0x200 0x280 0x300 3) (loaded [(0x200, [0x3FF0000000000000, 0x0000000000000000, 0x3FF0000000000000, 0x3FF0000000000000, 0x3FF0000000000000, 0x0000000000000000]), (0x280, [0x4000000000000000, 0x0000000000000000, 0x0000000000000000, 0x0000000000000000, 0x16687E92154EF7AC, 0x0000000000000000])])).map (fun t => readCpxs t.dmem 0x300 3) =
      some [⟨0x3FE0000000000000, 0x0000000000000000⟩, ⟨0x0000000000000000, 0x0000000000000000⟩, ⟨0x187C83E7AD4E6EFD, 0x0000000000000000⟩] := by decide +kernel

/-- TV7. -/
theorem test_vscale :
    (ran (.vscale 0x200 0x300 1 0x3FE0000000000000) (loaded [(0x200, [0x3FF0000000000000, 0xC000000000000000])])).map (fun t => readCpxs t.dmem 0x300 1) =
      some [⟨0x3FE0000000000000, 0xBFF0000000000000⟩] := by decide +kernel

/-- TV9. -/
theorem test_vconj :
    (ran (.vconj 0x200 0x300 1) (loaded [(0x200, [0x3FF0000000000000, 0x0000000000000000])])).map (fun t => readCpxs t.dmem 0x300 1) =
      some [⟨0x3FF0000000000000, 0x8000000000000000⟩] := by decide +kernel

/-- TV10, TV11. -/
theorem test_vmag :
    (ran (.vmag 0x200 0x300 2) (loaded [(0x200, [0x4008000000000000, 0x4010000000000000, 0x6974E718D7D7625A, 0x0000000000000000])])).map (fun t => readReals t.dmem 0x300 2) =
      some [0x4014000000000000, 0x7FF0000000000000] := by decide +kernel

/-- TV12. -/
theorem test_vsqmag :
    (ran (.vsqmag 0x200 0x300 1) (loaded [(0x200, [0x4008000000000000, 0x4010000000000000])])).map (fun t => readReals t.dmem 0x300 1) =
      some [0x4039000000000000] := by decide +kernel

/-- TV19. -/
theorem test_vpolar :
    (ran (.vpolar 0x200 0x300 1) (loaded [(0x200, [0x8000000000000000, 0x0000000000000000])])).map (fun t => readCpxs t.dmem 0x300 1) =
      some [⟨0x0000000000000000, 0x0000000000000000⟩] := by decide +kernel

/-- TV21. -/
theorem test_vrect :
    (ran (.vrect 0x200 0x300 1) (loaded [(0x200, [0x4000000000000000, 0x0000000000000000])])).map (fun t => readCpxs t.dmem 0x300 1) =
      some [⟨0x4000000000000000, 0x0000000000000000⟩] := by decide +kernel

/-- R234. -/
theorem test_vclear :
    (ran (.vclear 0x200 1) (loaded [(0x200, [0x4008000000000000, 0x4010000000000000, 0x4014000000000000, 0x4018000000000000])])).map (fun t => readCpxs t.dmem 0x200 2) =
      some [⟨0x0000000000000000, 0x0000000000000000⟩, ⟨0x4014000000000000, 0x4018000000000000⟩] := by decide +kernel

/-- TV30. -/
theorem test_vcopy :
    (ran (.vcopy 0x100 0x110 2) (loaded [(0x100, [0x3FF0000000000000, 0x4000000000000000, 0x4008000000000000, 0x4010000000000000])])).map (fun t => readCpxs t.dmem 0x110 2) =
      some [⟨0x3FF0000000000000, 0x4000000000000000⟩, ⟨0x4008000000000000, 0x4010000000000000⟩] := by decide +kernel

/-- TV22, TV24. -/
theorem test_vdecim :
    ((ran (.vdecim 0x200 0x300 5 2) (loaded [(0x200, [0x3FF0000000000000, 0x0000000000000000, 0x4000000000000000, 0x0000000000000000, 0x4008000000000000, 0x0000000000000000, 0x4010000000000000, 0x0000000000000000, 0x4014000000000000, 0x0000000000000000])])).map fun t => (readCpxs t.dmem 0x300 3, t.lastCount)) =
      some ([⟨0x3FF0000000000000, 0x0000000000000000⟩, ⟨0x4008000000000000, 0x0000000000000000⟩, ⟨0x0000000000000000, 0x0000000000000000⟩], 2) ∧
    (ran (.vdecim 0x200 0x300 1 2) (loaded [])).map (fun t => t.lastCount) = some 0 := by decide +kernel

/-- TV13. -/
theorem test_vnormsqr :
    (ran (.vnormsqr 0x200 0x300 2) (loaded [(0x200, [0x4008000000000000, 0x4010000000000000, 0x3FF0000000000000, 0x0000000000000000])])).map (fun t => readReals t.dmem 0x300 1) =
      some [0x403A000000000000] := by decide +kernel

/-- TV14, TV15. -/
theorem test_vnorm :
    ((ran (.vnorm 0x200 0x300 2) (loaded [(0x200, [0x4008000000000000, 0x4010000000000000, 0x0000000000000000, 0x0000000000000000])])).map fun t => rdR t.dmem 0x300) = some 0x400C48C6001F0AC0 ∧
    ((ran (.vnorm 0x200 0x300 0) (loaded [(0x300, [0x401C000000000000])])).map fun t => rdR t.dmem 0x300) = some 0 := by decide +kernel

/-- TV16. -/
theorem test_vpeak :
    (ran (.vpeak 0x200 0x300 2) (loaded [(0x200, [0x4008000000000000, 0x4010000000000000, 0x0000000000000000, 0x4018000000000000])])).map (fun t => readReals t.dmem 0x300 1) =
      some [0x4018000000000000] := by decide +kernel

/-- TV18. -/
theorem test_vpeakpwr :
    (ran (.vpeakpwr 0x200 0x300 2) (loaded [(0x200, [0x4008000000000000, 0x4010000000000000, 0x0000000000000000, 0x4018000000000000])])).map (fun t => readReals t.dmem 0x300 1) =
      some [0x4042000000000000] := by decide +kernel

/-- TD1. -/
theorem test_dlCfg :
    (ran (.dlCfg 0 4 0) (loaded [])).map (fun t => t.dlAt 0) =
      some ⟨true, 0, 0, List.replicate 4 Cpx.zero⟩ := by decide +kernel

/-- TD2. -/
theorem test_dlPush :
    (ran (.dlPush 0 0x400 3) ((loaded [(0x400, [0x3FF0000000000000, 0x0000000000000000, 0x4000000000000000, 0x0000000000000000, 0x4008000000000000, 0x0000000000000000])]).setDl 0 ⟨true, 0, 0, List.replicate 4 Cpx.zero⟩)).map (fun t => t.dlAt 0) =
      some ⟨true, 0, 1, [⟨0x0000000000000000, 0x0000000000000000⟩, ⟨0x4008000000000000, 0x0000000000000000⟩, ⟨0x4000000000000000, 0x0000000000000000⟩, ⟨0x3FF0000000000000, 0x0000000000000000⟩]⟩ := by decide +kernel

/-- TD3. -/
theorem test_dlTap :
    ([0, 1, 3].map fun m => (ran (.dlTap 0 0x500 m) ((loaded []).setDl 0 ⟨true, 0, 1, [⟨0x0000000000000000, 0x0000000000000000⟩, ⟨0x4008000000000000, 0x0000000000000000⟩, ⟨0x4000000000000000, 0x0000000000000000⟩, ⟨0x3FF0000000000000, 0x0000000000000000⟩]⟩)).map fun t =>
        rdC t.dmem 0x500) = [some ⟨0x4008000000000000, 0x0000000000000000⟩, some ⟨0x4000000000000000, 0x0000000000000000⟩, some ⟨0x0000000000000000, 0x0000000000000000⟩] := by decide +kernel

/-- TD5. -/
theorem test_dlMac :
    (ran (.dlMac 0 0x400 0x500 6) ((loaded [(0x400, [0x3FF0000000000000, 0x3FF0000000000000, 0x3FF0000000000000, 0x3FF0000000000000, 0x3FF0000000000000, 0x3FF0000000000000])]).setDl 0 ⟨true, 0, 1, [⟨0x0000000000000000, 0x0000000000000000⟩, ⟨0x4008000000000000, 0x0000000000000000⟩, ⟨0x4000000000000000, 0x0000000000000000⟩, ⟨0x3FF0000000000000, 0x0000000000000000⟩]⟩)).map (fun t => readCpxs t.dmem 0x500 1) =
      some [⟨0x4026000000000000, 0x0000000000000000⟩] := by decide +kernel

/-- R290: mode 1 with taps of DMEM. -/
theorem test_hbCfg :
    (ran (.hbCfg 1 1 0x400 3 0 4 0x3FB999999999999A) (loaded [(0x400, [0x3FD0000000000000, 0x3FE0000000000000, 0x3FD0000000000000])])).map (fun t => t.hbAt 1) =
      some ⟨true, .fir, .direct, [0x3FD0000000000000, 0x3FE0000000000000, 0x3FD0000000000000], 0x3FB999999999999A, .four, PassState.zero 2, PassState.zero 2⟩ := by decide +kernel

/-- TH2. -/
theorem test_hbRun_cic3 :
    ((ran (.hbRun 0 0x400 0x500 8) ((loaded [(0x400, [0x3FF0000000000000, 0x0000000000000000, 0x4000000000000000, 0x0000000000000000, 0x4008000000000000, 0x0000000000000000, 0x4010000000000000, 0x0000000000000000, 0x4014000000000000, 0x0000000000000000, 0x4018000000000000, 0x0000000000000000, 0x401C000000000000, 0x0000000000000000, 0x4020000000000000, 0x0000000000000000])]).setHb 0 ⟨true, .cic3, .direct, [], 0, .two, PassState.zero 0, PassState.zero 0⟩)).map fun t => (readCpxs t.dmem 0x500 4, t.lastCount)) =
      some ([⟨0x3FE4000000000000, 0x0000000000000000⟩, ⟨0x4004000000000000, 0x0000000000000000⟩, ⟨0x4012000000000000, 0x0000000000000000⟩, ⟨0x401A000000000000, 0x0000000000000000⟩], 4) := by decide +kernel

/-- TH4. -/
theorem test_hbRun_fir :
    ((ran (.hbRun 0 0x400 0x500 8) ((loaded [(0x400, [0x3FF0000000000000, 0x0000000000000000, 0x4000000000000000, 0x0000000000000000, 0x4008000000000000, 0x0000000000000000, 0x4010000000000000, 0x0000000000000000, 0x4014000000000000, 0x0000000000000000, 0x4018000000000000, 0x0000000000000000, 0x401C000000000000, 0x0000000000000000, 0x4020000000000000, 0x0000000000000000])]).setHb 0 ⟨true, .fir, .direct, [0x3FD0000000000000, 0x3FE0000000000000, 0x3FD0000000000000], 0, .two, PassState.zero 2, PassState.zero 2⟩)).map fun t =>
        (readCpxs t.dmem 0x500 4, (t.hbAt 0).pass0.hist, (t.hbAt 0).pass0.ph)) =
      some ([⟨0x3FD0000000000000, 0x0000000000000000⟩, ⟨0x4000000000000000, 0x0000000000000000⟩, ⟨0x4010000000000000, 0x0000000000000000⟩, ⟨0x4018000000000000, 0x0000000000000000⟩], [⟨0x401C000000000000, 0x0000000000000000⟩, ⟨0x4020000000000000, 0x0000000000000000⟩], 0) := by decide +kernel

/-- TC1. -/
theorem test_chBuild :
    (ran (.chBuild 0 0x400 2048000 1 0) (loaded [])).map (fun t =>
        (rdR t.dmem 0x400, memRead t.dmem 0x408 4, memRead t.dmem 0x40C 4, t.lastCount)) =
      some (0x40CF400000000000, 4, 0, 4) := by decide +kernel

/-- TC2 with an input of 32 samples, the first two stages of TC1 (intermediate values of TC2). -/
theorem test_chProc :
    (ran (.chProc 0 0x400 0x800 16) ((loaded [(0x400, [0x3FF0000000000000, 0x0000000000000000, 0x3FF0000000000000, 0x0000000000000000, 0x3FF0000000000000, 0x0000000000000000, 0x3FF0000000000000, 0x0000000000000000, 0x3FF0000000000000, 0x0000000000000000, 0x3FF0000000000000, 0x0000000000000000, 0x3FF0000000000000, 0x0000000000000000, 0x3FF0000000000000, 0x0000000000000000, 0x3FF0000000000000, 0x0000000000000000, 0x3FF0000000000000, 0x0000000000000000, 0x3FF0000000000000, 0x0000000000000000, 0x3FF0000000000000, 0x0000000000000000, 0x3FF0000000000000, 0x0000000000000000, 0x3FF0000000000000, 0x0000000000000000, 0x3FF0000000000000, 0x0000000000000000, 0x3FF0000000000000, 0x0000000000000000])]).setCh 0 ⟨[⟨0, .four, 0x413F400000000000, PassState.zero 2, PassState.zero 2⟩,
        ⟨0, .four, 0x411F400000000000, PassState.zero 2, PassState.zero 2⟩], 0x40FF400000000000, false⟩)).map (fun t => (readCpxs t.dmem 0x800 1, t.lastCount)) =
      some ([⟨0x3FC9800000000000, 0x0000000000000000⟩], 1) := by decide +kernel

/-- TC6. -/
theorem test_chProc_empty :
    (ran (.chProc 0 0x400 0x800 3) (loaded [(0x400, [0x3FF0000000000000, 0x0000000000000000, 0x4000000000000000, 0xC008000000000000, 0x8000000000000000, 0x4010000000000000])])).map (fun t => (readCpxs t.dmem 0x800 3, t.lastCount)) =
      some ([⟨0x3FF0000000000000, 0x0000000000000000⟩, ⟨0x4000000000000000, 0xC008000000000000⟩, ⟨0x8000000000000000, 0x4010000000000000⟩], 3) := by decide +kernel

/-- TC11, its first two records. -/
theorem test_chInfo :
    (ran (.chInfo 0 0x500) ((loaded []).setCh 0 ⟨[⟨0, .four, 0x413F400000000000, PassState.zero 2, PassState.zero 2⟩,
        ⟨0, .two, 0x411F400000000000, PassState.zero 2, PassState.zero 2⟩], 0x410F400000000000, false⟩)).map (fun t =>
        ([0x500, 0x510].map fun r => (rdR t.dmem r, memRead t.dmem (r + 8) 4, memRead t.dmem (r + 12) 4), t.lastCount)) =
      some ([(0x413F400000000000, 0, 4), (0x411F400000000000, 0, 2)], 2) := by decide +kernel

/-- TF2. -/
theorem test_firGenlp :
    (ran (.firGenlp 0 0x400 1 0x3FB999999999999A) (loaded [])).map (fun t => readReals t.dmem 0x400 1) =
      some [0x3FF0000000000000] := by decide +kernel

/-- R346 with TF2: the inverted one-tap lowpass. -/
theorem test_firGenhp :
    (ran (.firGenhp 1 0x400 1 0x3FB999999999999A) (loaded [])).map (fun t => readReals t.dmem 0x400 1) =
      some [0x0000000000000000] := by decide +kernel

/-- TF15. -/
theorem test_firGenbs :
    (ran (.firGenbs 0 0x400 1 0x3FB999999999999A 0x3FC999999999999A) (loaded [])).map (fun t => readReals t.dmem 0x400 1) =
      some [0x3FF0000000000000] := by decide +kernel

/-- TF15. -/
theorem test_firGenbp :
    (ran (.firGenbp 2 0x400 1 0x3FB999999999999A 0x3FC999999999999A) (loaded [])).map (fun t => readReals t.dmem 0x400 1) =
      some [0x0000000000000000] := by decide +kernel

/-- TF3. -/
theorem test_firInvert :
    (ran (.firInvert 0x300 0x400 3) (loaded [(0x300, [0x3FD0000000000000, 0x3FE0000000000000, 0x3FD0000000000000])])).map (fun t => readReals t.dmem 0x400 3) =
      some [0xBFD0000000000000, 0x3FE0000000000000, 0xBFD0000000000000] := by decide +kernel

/-- TF5. -/
theorem test_firReverse :
    (ran (.firReverse 0x300 0x400 3) (loaded [(0x300, [0x3FD0000000000000, 0x3FE0000000000000, 0x3FD0000000000000])])).map (fun t => readReals t.dmem 0x400 3) =
      some [0x3FD0000000000000, 0xBFE0000000000000, 0x3FD0000000000000] := by decide +kernel

/-- P4. -/
theorem test_firCfg :
    (ran (.firCfg 0 0 0x300 3 1) (loaded [(0x300, [0x3FD0000000000000, 0x3FE0000000000000, 0x3FD0000000000000])])).map (fun t => t.firAt 0) =
      some ⟨true, .td, [0x3FD0000000000000, 0x3FE0000000000000, 0x3FD0000000000000], 1, 0, List.replicate 2 Cpx.zero⟩ := by decide +kernel

/-- TF7. -/
theorem test_firRun :
    (ran (.firRun 0 0x400 0x500 4) (((loaded [(0x400, [0x3FF0000000000000, 0x0000000000000000, 0x3FF0000000000000, 0x0000000000000000, 0x3FF0000000000000, 0x0000000000000000, 0x3FF0000000000000, 0x0000000000000000])]).setFir 0 ⟨true, .td, [0x3FD0000000000000, 0x3FE0000000000000, 0x3FD0000000000000], 1, 0, []⟩).setDl 1 ⟨true, 0, 0, List.replicate 4 Cpx.zero⟩)).map (fun t => readCpxs t.dmem 0x500 4) =
      some [⟨0x3FD0000000000000, 0x0000000000000000⟩, ⟨0x3FE8000000000000, 0x0000000000000000⟩, ⟨0x3FF0000000000000, 0x0000000000000000⟩, ⟨0x3FF0000000000000, 0x0000000000000000⟩] := by decide +kernel

/-- TF16. -/
theorem test_firRun_unconfigured_line :
    (ran (.firRun 0 0x400 0x500 4) ((loaded []).setFir 0 ⟨true, .td, [0x3FF0000000000000], 2, 0, []⟩)).map (fun t => (t.cause, t.faultInfo)) =
      some (.unconfigured, 0x202) := by decide +kernel

/-- TI1, R372. -/
theorem test_iirCfg :
    (ran (.iirCfg 2 0 0x300 1) (loaded [(0x300, [0x3FF0000000000000, 0x0000000000000000, 0xBFE0000000000000])])).map (fun t => t.iirAt 2) =
      some ⟨true, .direct, [0x3FF0000000000000, 0x0000000000000000], [0xBFE0000000000000], Hist.zero 1, Hist.zero 1, []⟩ := by decide +kernel

/-- TI1. -/
theorem test_iirRun :
    (ran (.iirRun 2 0x400 0x500 3) ((loaded [(0x400, [0x3FF0000000000000, 0x0000000000000000, 0x0000000000000000, 0x0000000000000000, 0x0000000000000000, 0x0000000000000000])]).setIir 2 ⟨true, .direct, [0x3FF0000000000000, 0x0000000000000000], [0xBFE0000000000000], Hist.zero 1, Hist.zero 1, []⟩)).map (fun t => readCpxs t.dmem 0x500 3) =
      some [⟨0x3FF0000000000000, 0x0000000000000000⟩, ⟨0x3FE0000000000000, 0x0000000000000000⟩, ⟨0x3FD0000000000000, 0x0000000000000000⟩] := by decide +kernel

/-- TI3. -/
theorem test_iirRun_cascade :
    (ran (.iirRun 0 0x400 0x500 2) ((loaded [(0x400, [0x3FF0000000000000, 0x4000000000000000, 0x4008000000000000, 0x4010000000000000])]).setIir 0 ⟨true, .cascade, [], [], Hist.zero 0, Hist.zero 0,
        [⟨0x3FE0000000000000, 0x3FE0000000000000, 0x0000000000000000, 0x0000000000000000, 0x0000000000000000, Hist.zero 2, Hist.zero 2⟩, ⟨0x4000000000000000, 0x0000000000000000, 0x0000000000000000, 0x0000000000000000, 0x0000000000000000, Hist.zero 2, Hist.zero 2⟩]⟩)).map (fun t => readCpxs t.dmem 0x500 2) =
      some [⟨0x3FF0000000000000, 0x4000000000000000⟩, ⟨0x4010000000000000, 0x4018000000000000⟩] := by decide +kernel

/-- R376. -/
theorem test_iirClr :
    (ran (.iirClr 2) ((loaded []).setIir 2 ⟨true, .direct, [0x3FF0000000000000, 0x0000000000000000], [0xBFE0000000000000], ⟨[1], [2]⟩, ⟨[3], [4]⟩, []⟩)).map (fun t => t.iirAt 2) =
      some ⟨true, .direct, [0x3FF0000000000000, 0x0000000000000000], [0xBFE0000000000000], Hist.zero 1, Hist.zero 1, []⟩ := by decide +kernel

/-- TG1: the coefficient is 2.0. -/
theorem test_gzCfg :
    (ran (.gzCfg 0 0 4 0 0 0 0x40BF400000000000 0) (loaded [])).map (fun t => t.gzAt 0) =
      some ⟨true, .single, 4, .re, ⟨0x4000000000000000, 0x0000000000000000, 0x0000000000000000⟩, GzBin.reset, GzBin.reset, 0, 0, 0, false, 0, 0, 0, 0, 0⟩ := by decide +kernel

/-- TG5, its first call. -/
theorem test_gzRun :
    (ran (.gzRun 0 0x400 0x500 6) ((loaded [(0x400, [0x3FF0000000000000, 0x0000000000000000, 0x3FF0000000000000, 0x0000000000000000, 0x3FF0000000000000, 0x0000000000000000, 0x3FF0000000000000, 0x0000000000000000, 0x3FF0000000000000, 0x0000000000000000, 0x3FF0000000000000, 0x0000000000000000])]).setGz 0 ⟨true, .single, 4, .re, ⟨0x4000000000000000, 0x0000000000000000, 0x0000000000000000⟩, GzBin.reset, GzBin.reset, 0, 0, 0, false, 0, 0, 0, 0, 0⟩)).map (fun t =>
        (readReals t.dmem 0x500 4, t.lastCount, t.gzAt 0)) =
      some ([0x4030000000000000, 0x0000000000000000, 0x0000000000000000, 0x0000000000000000], 1, ⟨true, .single, 4, .re, ⟨0x4000000000000000, 0x4008000000000000, 0x3FF0000000000000⟩, GzBin.reset, GzBin.reset, 2, 0, 0, false, 0, 0, 0, 0, 0⟩) := by decide +kernel

/-- TG4: two bins of power 16 with `k = 0.5`. -/
theorem test_gzRun_adaptive :
    (ran (.gzRun 0 0x400 0x500 8) ((loaded [(0x400, [0x3FF0000000000000, 0x0000000000000000, 0x3FF0000000000000, 0x0000000000000000, 0x3FF0000000000000, 0x0000000000000000, 0x3FF0000000000000, 0x0000000000000000, 0x3FF0000000000000, 0x0000000000000000, 0x3FF0000000000000, 0x0000000000000000, 0x3FF0000000000000, 0x0000000000000000, 0x3FF0000000000000, 0x0000000000000000])]).setGz 0 ⟨true, .adaptive, 4, .re, ⟨0x4000000000000000, 0, 0⟩, GzBin.reset, GzBin.reset, 0,
        0x3FE0000000000000, 0, false, 0, 0, 0, 0, 0⟩)).map (fun t =>
        (memRead t.dmem 0x518 4, ((t.gzAt 0).toneAvg, (t.gzAt 0).thr, (t.gzAt 0).quiet, (t.gzAt 0).bit))) =
      some (1, (0x4028000000000000, 0x4018000000000000, 1, true)) := by decide +kernel

/-- TN1. -/
theorem test_ncoCfg :
    (ran (.ncoCfg 1 0 0x40E7700000000000 0) (loaded [])).map (fun t => t.ncoAt 1) = some ⟨true, 0x40E7700000000000, 0, 0⟩ := by decide +kernel

/-- TN2. -/
theorem test_ncoFreq :
    (ran (.ncoFreq 1 0x40C7700000000000) ((loaded []).setNco 1 ⟨true, 0x40E7700000000000, 0, 0⟩)).map (fun t => (t.ncoAt 1).inc) =
      some 0x3FF921FB54442D18 := by decide +kernel

/-- TN1. -/
theorem test_ncoMix :
    (ran (.ncoMix 1 0x400 0x500 1) ((loaded [(0x400, [0x3FF0000000000000, 0x4000000000000000])]).setNco 1 ⟨true, 0x40E7700000000000, 0, 0⟩)).map (fun t =>
        (rdC t.dmem 0x500, (t.ncoAt 1).phase)) = some (⟨0x3FF0000000000000, 0x4000000000000000⟩, 0) := by decide +kernel

/-- TV25, TV26, TV28, TV29; TV23. -/
theorem test_fault_regions :
    [faultOf (ran (.vadd 0x8 0 0 0) (loaded [])),
      faultOf (ran (.vadd 0xFFFFFFF0 0 0 0) (loaded [])),
      faultOf (ran (.vadd 0xFFFF0 0 0 2) (loaded [])),
      faultOf (ran (.vadd 0x10 0x8 0x100001 1) (loaded [])),
      faultOf (ran (.vdecim 0 0 5 0) (loaded []))] =
      [some (.operandMisaligned, 8), some (.none, 0), some (.operandRange, 0xFFFF0), some (.operandMisaligned, 8), some (.badField, 5)] := by decide +kernel

/-- TD8, TD9, TH15, TI6, TN7, TX6, TX8. -/
theorem test_fault_units :
    [faultOf (ran (.dlPush 1 0 1) (loaded [])),
      faultOf (ran (.dlCfg 4 1 0) (loaded [])),
      faultOf (ran (.hbRun 0 0 0 1) (loaded [])),
      faultOf (ran (.iirRun 0 0 0 1) (loaded [])),
      faultOf (ran (.ncoMix 0 0 0 1) (loaded [])),
      faultOf (ran (.hbRun 2 0 0 1) (loaded [])),
      faultOf (ran (.hbRun 0 8 0 1) (loaded []))] =
      [some (.unconfigured, 0x201), some (.badUnit, 4), some (.unconfigured, 0x100), some (.unconfigured, 0x400), some (.unconfigured, 0x600), some (.badUnit, 2), some (.unconfigured, 0x100)] := by decide +kernel

/-- TD6, TD7, TH10-TH13, TC8, TC12. -/
theorem test_fault_fields :
    [faultOf (ran (.dlCfg 0 4 4) (loaded [])),
      faultOf (ran (.dlCfg 0 0 0) (loaded [])),
      faultOf (ran (.hbCfg 0 0 0 0 14 2 0) (loaded [])),
      faultOf (ran (.hbCfg 0 1 0 4 0 2 0) (loaded [])),
      faultOf (ran (.hbCfg 0 2 0 0 0 3 0) (loaded [])),
      faultOf (ran (.hbCfg 0 3 0 0 0 2 0) (loaded [])),
      faultOf (ran (.chBuild 0 0 0 1 0) (loaded [])),
      faultOf (ran (.chProc 0 0 0 65537) (loaded []))] =
      [some (.badField, 5), some (.badField, 4), some (.badField, 5), some (.badField, 4), some (.badField, 6), some (.badField, 0), some (.badField, 4), some (.badField, 4)] := by decide +kernel

/-- TF9, TF11-TF14, TI4, TG6-TG8, TG10, TN4-TN6. -/
theorem test_fault_filter_fields :
    [faultOf (ran (.firCfg 0 1 0 4 2) (loaded [])),
      faultOf (ran (.firGenlp 0 0 2 0x3FB999999999999A) (loaded [])),
      faultOf (ran (.firGenlp 0 0 3 0x3FE0000000000000) (loaded [])),
      faultOf (ran (.firGenbs 0 0 3 0x3FD3333333333333 0x3FC999999999999A) (loaded [])),
      faultOf (ran (.firGenlp 3 0 3 0x3FB999999999999A) (loaded [])),
      faultOf (ran (.iirCfg 0 0 0 0) (loaded [])),
      faultOf (ran (.gzCfg 0 0 0 0 0 0 0x40BF400000000000 0) (loaded [])),
      faultOf (ran (.gzCfg 0 0 4 0 0 0 0 0) (loaded [])),
      faultOf (ran (.gzCfg 0 2 4 0 0 0 0x40BF400000000000 0x3FF8000000000000) (loaded [])),
      faultOf (ran (.gzCfg 0 0 4 0 3 0 0x40BF400000000000 0) (loaded [])),
      faultOf (ran (.ncoCfg 0 0x40E7700000000000 0x40E7700000000000 0) (loaded [])),
      faultOf (ran (.ncoCfg 0 0x41CDCD6500000000 0 0) (loaded [])),
      faultOf (ran (.ncoCfg 0 0 0x40E7700000000000 0x401C000000000000) (loaded []))] =
      [some (.badField, 5), some (.badField, 4), some (.badField, 8), some (.badField, 10), some (.badField, 0), some (.badField, 4), some (.badField, 4), some (.badField, 10), some (.badField, 12), some (.badField, 6), some (.badField, 8), some (.badField, 10), some (.badField, 12)] := by decide +kernel

/-! ## States and operands that meet the hypotheses of the statements

Each theorem is named after the statement whose hypotheses it meets; boundary values are those of the rules. -/

theorem goesOn_exists {o : Result} (h : (goesOn o).isSome = true) : ∃ t, o = .next t := by
  cases o with
  | next t => exact ⟨t, rfl⟩
  | fault f => cases h
  | refused r => cases h

/-- HALT where the sequencer fetches next. -/
def atHalt : State := State.reset.withFetchWord 32 0x00000001

/-- NOP in the last descriptor of DMEM. -/
def atLastNop : State := { State.reset with cp := 0xFFFC0, status := ⟨true, false, false, false⟩ }

/-- A running state at `cp` with one word there. -/
def runningAt (cp : Word) (w : Nat) : State := { loaded [] with cp := cp, dmem := wrU [] cp.toNat w }

/-- Every unit kind has instance 0 configured: a delay line, a CIC3 stage, a chain of one stage, a FIR engine on that
line, a first-order recursion, a detector and a mixer. -/
def configured : State :=
  ((((((State.reset.setDl 0 ⟨true, 1, 0, List.replicate 4 Cpx.zero⟩).setHb 0
    ⟨true, .cic3, .table 0, [], 0, .four, PassState.zero 0, PassState.zero 0⟩).setCh 0
    ⟨[⟨0, .four, 0x413F400000000000, PassState.zero 0, PassState.zero 0⟩], 0x411F400000000000, false⟩).setFir 0
    ⟨true, .td, [0x3FF0000000000000], 0, 0, []⟩).setFir 1
    ⟨true, .fd, [0x3FF0000000000000, 0x3FF0000000000000], 0, 2, [Cpx.zero]⟩).setIir 0
    ⟨true, .direct, [0x3FF0000000000000, 0], [0xBFE0000000000000], Hist.zero 1, Hist.zero 1, []⟩ |>.setGz 0
    ⟨true, .single, 4, .re, ⟨0x4000000000000000, 0, 0⟩, GzBin.reset, GzBin.reset, 3, 0, 0, false, 0, 0, 0, 0, 0⟩).setNco 0
    ⟨true, 0x40E7700000000000, 0, 0⟩

theorem witness_DecodeReadsEveryEncoding :
    ∀ i ∈ [Instr.hbCfg 15 0 0 0 0xFFFFFFFF 0xFFFFFFFF 0, .hbCfg 15 1 0xFFFFFFFF 0xFFFFFFFF 0 1 0xFFFFFFFFFFFFFFFF,
        .hbCfg 0 2 0 0 0 0 1, .hbCfg 0 15 0 0 0 7 0, .gzCfg 15 0 0xFFFFFFFF 0 1 1 1 0, .gzCfg 15 1 1 1 1 1 1 1,
        .gzCfg 15 2 1 0xFFFFFFFF 1 1 1 0xFFFFFFFFFFFFFFFF, .vadd 0xFFFFFFFF 0xFFFFFFFF 0xFFFFFFFF 0xFFFFFFFF],
      wellFormed i = true := by
  simp only [List.forall_mem_cons, List.not_mem_nil, false_implies, implies_true, and_true]; decide +kernel

theorem witness_DecodedDescriptorIsTheEncoding :
    decode ⟨0x00001F40, 8, 0, 0, 3, 0, 4, 0, 5, 0, 0, 0, 0⟩ = .command (.hbCfg 15 1 8 3 0 4 5) := by decide +kernel

theorem witness_UnlistedOpcodesAreIllegal :
    ∀ w ∈ [0x06#32, 0x0F#32, 0x1D#32, 0x1F#32, 0x24#32, 0x2F#32, 0x34#32, 0x3F#32, 0x42#32, 0x4F#32, 0x53#32, 0x5F#32,
        0x68#32, 0x6F#32, 0x73#32, 0x7F#32, 0x82#32, 0x8F#32, 0x93#32, 0xFF#32, 0x106#32],
      decode { zeroDesc with w0 := w, w7 := 1 } = .illegalOpcode w := by
  simp only [List.forall_mem_cons, List.not_mem_nil, false_implies, implies_true, and_true]; decide +kernel

/-- A NOP with one field set, at least one for each word, or with several, and the lowest of those words. -/
def nopVariants : List (Desc × Nat) :=
  [({ zeroDesc with w0 := 0x80000000 }, 0), ({ zeroDesc with w0 := 0x10000 }, 0), ({ zeroDesc with w0 := 0x100 }, 0),
    ({ zeroDesc with w0 := 0x8000 }, 0), ({ zeroDesc with a := 1 }, 1), ({ zeroDesc with b := 1 }, 2),
    ({ zeroDesc with d := 1 }, 3), ({ zeroDesc with n := 1 }, 4), ({ zeroDesc with m := 1 }, 5),
    ({ zeroDesc with p := 1 }, 6), ({ zeroDesc with w7 := 1 }, 7), ({ zeroDesc with k0 := 0x100000000 }, 8),
    ({ zeroDesc with k1 := 1 }, 10), ({ zeroDesc with k2 := 1 }, 12), ({ zeroDesc with w14 := 1 }, 14),
    ({ zeroDesc with w15 := 1 }, 15), ({ zeroDesc with m := 1, k2 := 1, w14 := 1 }, 5)]

theorem sameCommand_nop {x : Desc} (h : x.opc = 0#8) : SameCommand .nop x := ⟨h, by simp [usedFields]⟩

theorem witness_ReservedFieldsAreReported :
    wellFormed .nop = true ∧ SameCommand .nop zeroDesc ∧
      (nopVariants.map fun r => r.1.opc) = List.replicate 17 0 ∧
        nopVariants.map (fun r => decode r.1) = nopVariants.map fun r => .reservedNonzero r.2 :=
  ⟨by decide, sameCommand_nop (by decide), by decide +kernel, by decide +kernel⟩

/-- The field `M` is unused in mode 2 of HB.CFG. -/
theorem witness_ReservedFieldsAreReported_mode :
    wellFormed (.hbCfg 15 2 0 0 0 2 1) = true ∧
      SameCommand (.hbCfg 15 2 0 0 0 2 1) { encodeDesc (.hbCfg 15 2 0 0 0 2 1) with m := 3 } ∧
        decode { encodeDesc (.hbCfg 15 2 0 0 0 2 1) with m := 3 } = .reservedNonzero 5 := by
  unfold SameCommand
  decide +kernel

theorem witness_AssemblerMatchesTheWorkedProgram :
    (parseFields ["a=0x100".toList, "d=0x200".toList, "n=4".toList]).isSome = true ∧
      ∀ f ∈ (parseFields ["a=0x100".toList, "d=0x200".toList, "n=4".toList]).getD [], f.1 ≠ .k0 := by decide +kernel

theorem witness_StepRunsDecodedInstruction :
    (WillFetch atHalt ∧ FetchLegal atHalt ∧ decode (fetchDesc atHalt) = .command .halt ∧
        (stepped atHalt).map (fun t => t.status.busy) = some false) ∧
      WillFetch atLastNop ∧ FetchLegal atLastNop ∧ decode (fetchDesc atLastNop) = .command .nop ∧
        (stepped atLastNop).map (fun t => t.status.busy) = some true := by
  unfold WillFetch FetchLegal; decide +kernel

theorem witness_FetchFaultsAreTaken :
    (∀ cp ∈ [1#32, 0x44#32, 0xFFFFFFFF#32], WillFetch { loaded [] with cp := cp } ∧ cp.toNat % 64 ≠ 0) ∧
      (∀ cp ∈ [0x100000#32, 0xFFFFFFC0#32], WillFetch { loaded [] with cp := cp } ∧ cp.toNat % 64 = 0 ∧
        Config.dmemBytes < cp.toNat + 64) ∧
        (∀ lc ∈ [2#32, 0xFFFFFFFF#32], 2 ≤ lc.toNat) := by
  unfold WillFetch
  simp only [List.forall_mem_cons, List.not_mem_nil, false_implies, implies_true, and_true]; decide +kernel

theorem witness_StepRunsDecodedInstruction_faults :
    (WillFetch (runningAt 0x40 0x106) ∧ FetchLegal (runningAt 0x40 0x106) ∧
        decode (fetchDesc (runningAt 0x40 0x106)) = .illegalOpcode 0x106) ∧
      WillFetch (runningAt 0xFFFC0 0x10000) ∧ FetchLegal (runningAt 0xFFFC0 0x10000) ∧
        decode (fetchDesc (runningAt 0xFFFC0 0x10000)) = .reservedNonzero 0 := by
  unfold WillFetch FetchLegal; decide +kernel

theorem witness_LatchesActAtTheBoundary :
    ((loaded []).status.busy = true ∧ (4#32).getLsbD 2 = true ∧ (3#32).getLsbD 2 = false ∧ (3#32).getLsbD 1 = true) ∧
      ((loaded []).inputs = [] ∧ State.reset.inputs = [] ∧ State.reset.status.busy = false) ∧
        (∀ v ∈ [2#32, 3#32, 0xFFFFFFFB#32], v.getLsbD 2 = false ∧ v.getLsbD 1 = true) ∧
          (∀ v ∈ [0#32, 8#32, 0xFFFFFFF8#32], v.getLsbD 2 = false ∧ v.getLsbD 1 = false ∧ v.getLsbD 0 = false) ∧
            ∀ r ∈ [(true, true), (true, false), (false, true)],
              ({ loaded [] with sresetReq := r.1, abortReq := r.2 }).status.busy = true := by
  simp only [List.forall_mem_cons, List.not_mem_nil, false_implies, implies_true, and_true]; decide +kernel

theorem witness_StartBeginsARun :
    ((0xFFFFFFF9#32).getLsbD 0 = true ∧ (0xFFFFFFF9#32).getLsbD 1 = false ∧ (0xFFFFFFF9#32).getLsbD 2 = false) ∧
      [State.reset, takeFault .badUnit 0 State.reset, loaded []].map (fun s => (s.status.busy, s.status.fault)) =
        [(false, false), (false, true), (true, false)] := by decide +kernel

theorem witness_RegistersWrittenOnlyByTheirCommands :
    (∃ t, exec .nop State.reset = .next t) ∧ reportsCount .nop = false ∧ writesLoopCounter .nop = false :=
  ⟨goesOn_exists (by decide +kernel), by decide, by decide⟩

theorem witness_RegistersWrittenOnlyByTheirCommands_pending :
    ∃ t, exec .nop { State.reset with irqPend := ⟨true, true, true, true⟩, status := ⟨true, true, true, true⟩ } =
      .next t := goesOn_exists (by decide +kernel)

theorem witness_UnitStateIsIsolated :
    (∃ t, exec (.ncoMix 0 0 0 1) configured = .next t) ∧
      (∀ j, ¬ mayChangeDl configured (.ncoMix 0 0 0 1) j ∧ ¬ mayChangeFir configured (.firRun 0 0 0 1) j) ∧
        mayChangeDl configured (.firRun 0 0 0 1) 0 ∧ ¬ mayChangeDl configured (.firRun 0 0 0 1) 1 ∧
          mayChangeFir configured (.firRun 1 0 0 2) 1 ∧ ¬ mayChangeNco (.ncoMix 0 0 0 1) 1 := by
  refine ⟨goesOn_exists (by decide +kernel), fun j => ⟨by simp [mayChangeDl], ?_⟩, ?_⟩
  · rintro ⟨-, h⟩
    exact absurd h (by decide +kernel)
  · simp only [mayChangeDl, mayChangeFir, mayChangeNco]
    decide +kernel

theorem witness_UnitFaultsComeFirst :
    (∀ p ∈ [(Instr.dlCfg 4 1 0, (4#4, 4)), (.hbRun 2 0 0 0, (2#4, 2)), (.chInfo 2 0, (2#4, 2)), (.firRun 4 0 0 0, (4#4, 4)),
        (.iirClr 15, (15#4, 4)), (.gzRun 4 0 0 0, (4#4, 4)), (.ncoFreq 2 0, (2#4, 2))],
      unitOperand p.1 = some p.2 ∧ p.2.2 ≤ p.2.1.toNat) ∧
      ∀ p ∈ [(Instr.dlTap 3 8 0, (3#4, 4, 0x203)), (.hbRun 1 8 8 0, (1#4, 2, 0x101)), (.firRun 3 8 8 0, (3#4, 4, 0x303)),
          (.iirClr 3, (3#4, 4, 0x403)), (.gzRun 3 8 8 0, (3#4, 4, 0x503)), (.ncoFreq 1 0, (1#4, 2, 0x601))],
        unitOperand p.1 = some (p.2.1, p.2.2.1) ∧ p.2.1.toNat < p.2.2.1 ∧
          configOperand State.reset p.1 = some (false, p.2.2.2) := by
  constructor <;> (simp only [List.forall_mem_cons, List.not_mem_nil, false_implies, implies_true, and_true]; decide +kernel)

/-- A time-domain engine on a delay line that no DL.CFG has made. -/
theorem witness_UnitFaultsComeFirst_line :
    unitOperand (.firRun 3 0 0 1) = some (3#4, 4) ∧
      configOperand (State.reset.setFir 3 ⟨true, .td, [fOne], 2, 0, []⟩) (.firRun 3 0 0 1) = some (true, 0x303) ∧
        ¬ lineReady (State.reset.setFir 3 ⟨true, .td, [fOne], 2, 0, []⟩) (.firRun 3 0 0 1) := by
  unfold lineReady; decide +kernel

/-- A command with each form of the premises, and fields just inside and just outside their ranges. -/
theorem witness_FieldFaultsAreTaken :
    ((∀ u count, unitOperand (.firRun 1 0 0 3) = some (u, count) → u.toNat < count) ∧
        (∀ b info, configOperand configured (.firRun 1 0 0 3) = some (b, info) → b = true) ∧
          lineReady configured (.firRun 1 0 0 3)) ∧
      [badFieldOf configured (.firRun 1 0 0 3), badFieldOf configured (.firRun 1 0 0 2),
          badFieldOf configured (.dlCfg 0 4096 4095), badFieldOf configured (.dlCfg 0 4097 0),
          badFieldOf configured (.dlCfg 0 4096 4096), badFieldOf configured (.vadd 1 1 1 0)] =
        [some 4, none, none, some 4, some 5, none] := by
  refine ⟨⟨?_, ?_, ?_⟩, by decide +kernel⟩
  · rintro u count ⟨⟩
    decide
  · intro b info h
    obtain ⟨rfl, -⟩ := Prod.mk.inj (Option.some.inj h)
    decide +kernel
  · unfold lineReady
    decide +kernel

theorem witness_StepKeepsMemoryForm :
    MemoryInv atHalt ∧ atHalt.dmem = [(0, 1)] ∧ ∃ t, step atHalt = .next t :=
  ⟨⟨by decide +kernel, by decide +kernel⟩, by decide +kernel, goesOn_exists (by decide +kernel)⟩

theorem witness_StepKeepsRunFlags :
    RunInv atHalt ∧ atHalt.status.busy = true ∧ (∃ t, step atHalt = .next t) ∧
      RunInv (takeFault .badUnit 2 State.reset) :=
  ⟨⟨by decide +kernel, by decide +kernel, by decide +kernel⟩, by decide +kernel, goesOn_exists (by decide +kernel),
    ⟨by decide +kernel, by decide +kernel, by decide +kernel⟩⟩

/-- An instance of a bank that the reset bank and one update give holds that update's value or its reset value. -/
theorem bank_cases {α : Type} {n : Nat} {r v x : α} {i j : Nat}
    (h : x = ((Vector.replicate n r).setIfInBounds i v)[j]?.getD r) : x = v ∨ x = r := by
  subst h
  rw [Vector.getElem?_setIfInBounds]
  split
  · split
    · exact .inl rfl
    · exact .inr rfl
  · rw [Vector.getElem?_replicate]
    split <;> exact .inr rfl

/-- A running state with a delay line and a mixer configured. -/
def unitsRunning : State :=
  ((loaded []).setDl 0 ⟨true, 1, 0, List.replicate 2 Cpx.zero⟩).setNco 0 ⟨true, 0x40E7700000000000, 0, 0⟩

theorem bank_reset {α : Type} {n : Nat} {r : α} (j : Nat) : (Vector.replicate n r)[j]?.getD r = r := by
  rw [Vector.getElem?_replicate]
  split <;> rfl

theorem witness_StepKeepsUnitRanges :
    UnitInv unitsRunning ∧ unitsRunning.status.busy = true ∧ ∃ t, step unitsRunning = .next t := by
  refine ⟨⟨fun i => ?_, fun i => ?_, fun i => ?_, fun i => ?_, fun i => ?_, fun i => ?_, fun i => ?_⟩,
    by decide +kernel, goesOn_exists (by decide +kernel)⟩
  · obtain h | h := bank_cases (x := unitsRunning.dlAt i) rfl <;> rw [h] <;> unfold DelayLine.Ok <;> decide +kernel
  · rw [show unitsRunning.hbAt i = Halfband.reset from bank_reset i]; simp [Halfband.Ok, Halfband.reset]
  · rw [show unitsRunning.chAt i = Chain.reset from bank_reset i]; simp [Chain.Ok, Chain.reset, Chain.nstages]
  · rw [show unitsRunning.firAt i = Fir.reset from bank_reset i]; simp [Fir.Ok, Fir.reset]
  · rw [show unitsRunning.iirAt i = Iir.reset from bank_reset i]; simp [Iir.Ok, Iir.reset]
  · rw [show unitsRunning.gzAt i = Goertzel.reset from bank_reset i]; simp [Goertzel.Ok, Goertzel.reset]
  · obtain h | h := bank_cases (x := unitsRunning.ncoAt i) rfl <;> rw [h] <;> unfold Nco.Ok <;> decide +kernel

theorem witness_ResetLeavesTheStatedValues :
    State.reset.status.busy = false ∧ (0xFFFFFFFF#32).getLsbD 2 = true := by decide +kernel

theorem witness_HostRegisterReads :
    (∀ o ∈ [0x40#8, 0xFC#8], 0x40 ≤ o.toNat ∧ o.toNat ≤ 0xFC) ∧ (∀ o ∈ [0x00#8, 0xFC#8], o.toNat % 4 = 0) ∧
      State.reset.cause = .none ∧ (takeFault .unconfigured 0x101 State.reset).cause = .unconfigured := by
  simp only [List.forall_mem_cons, List.not_mem_nil, false_implies, implies_true, and_true]; decide +kernel

/-- The fault registers and the bits of STATUS and IRQ_PEND as the host reads them after a fault. -/
theorem test_host_reads :
    [0x14#8, 0x20#8, 0x24#8, 0x28#8, 0x34#8, 0x38#8, 0x3C#8].map
        (readCsr (takeFault .unconfigured 0x101 { State.reset with cp := 0x40, retired := 0x500000003 })) =
      [2#32, 9#32, 0x40#32, 0x101#32, 2#32, 3#32, 5#32] := by decide +kernel

theorem witness_HostRegisterWrites :
    ∀ o ∈ [0x00#8, 0x0C#8, 0x20#8, 0x2C#8, 0x38#8, 0xFC#8],
      o ∉ [0x10#8, 0x14#8, 0x18#8, 0x1C#8, 0x30#8, 0x34#8] ∧ o.toNat % 4 = 0 := by
  simp only [List.forall_mem_cons, List.not_mem_nil, false_implies, implies_true, and_true]; decide +kernel

theorem witness_HostMemoryMoves :
    (State.reset.dmem.wf = true ∧ State.reset.status.busy = false ∧ 0xFFFFF + [1#8].length ≤ Config.dmemBytes ∧
        0x100000 + ([] : List Byte).length ≤ Config.dmemBytes) ∧
      (loaded []).status.busy = true ∧ Config.dmemBytes < 0xFFFFF + 2 ∧ (2 ≠ 4 ∨ (0x18#8).toNat % 4 ≠ 0) ∧
        (4 ≠ 4 ∨ (0x19#8).toNat % 4 ≠ 0) := by decide +kernel

/-- The regions at the ends of DMEM, and an empty one anywhere aligned. -/
theorem legal_regions :
    (LegalCpxs 0 65536 ∧ LegalCpxs 0xFFFF0 1 ∧ LegalCpxs 0xFFFFFFF0 0) ∧
      (LegalReals 0 131072 ∧ LegalReals 0xFFFF8 1 ∧ LegalReals 0xFFFFFFF8 0) ∧
        LegalRegion 0xFFFF0 1 16 8 ∧ LegalRegion 0x8 1 16 8 ∧ LegalRegion 0xFFFE0 1 32 8 ∧ LegalRegion 0xFFFFFFF8 0 32 8 := by
  unfold LegalCpxs LegalReals LegalRegion; decide +kernel

theorem witness_BinaryCommandsComputeElementwise :
    State.reset.dmem.wf = true ∧ LegalCpxs 0xFFFF0 (1#32).toNat ∧ LegalCpxs 0 (1#32).toNat ∧
      LegalCpxs 0 (65536#32).toNat ∧ LegalCpxs 0xFFFFFFF0 (0#32).toNat :=
  ⟨by decide, legal_regions.1.2.1, by unfold LegalCpxs LegalRegion; decide +kernel, legal_regions.1.1, legal_regions.1.2.2⟩

theorem witness_UnaryCommandsComputeElementwise :
    State.reset.dmem.wf = true ∧ LegalCpxs 0xFFFF0 (1#32).toNat ∧ LegalReals 0xFFFF8 (1#32).toNat ∧
      LegalReals 0xFFFFFFF8 (0#32).toNat :=
  ⟨by decide, legal_regions.1.2.1, legal_regions.2.1.2⟩

theorem witness_ClearAndDecimateComplete :
    State.reset.dmem.wf = true ∧ LegalCpxs 0xFFFF0 (1#32).toNat ∧ (1#32 ≠ 0 ∧ 2#32 ≠ 0) ∧
      LegalCpxs 0xFFFF0 ((3#32).toNat / (2#32).toNat) ∧ LegalCpxs 0xFFFD0 (3#32).toNat ∧
        LegalCpxs 0xFFFFFFF0 ((1#32).toNat / (2#32).toNat) := by
  unfold LegalCpxs LegalRegion; decide +kernel

theorem witness_ReductionsComplete :
    State.reset.dmem.wf = true ∧ LegalCpxs 0 (65536#32).toNat ∧ LegalCpxs 0xFFFFFFF0 (0#32).toNat ∧
      LegalReals 0xFFFF8 1 :=
  ⟨by decide, legal_regions.1.1, legal_regions.1.2.2, legal_regions.2.1.2.1⟩

/-- A command of each region shape meets the premises at each outcome: the address misaligned first, the address out of
range first, none. -/
theorem witness_RegionFaultsInOrder :
    (∀ u count, unitOperand (.hbRun 0 8 8 4) = some (u, count) → u.toNat < count) ∧
      (∀ b info, configOperand configured (.hbRun 0 8 8 4) = some (b, info) → b = true) ∧
        lineReady configured (.hbRun 0 8 8 4) ∧ badFieldOf configured (.hbRun 0 8 8 4) = none ∧
          ([.hbRun 0 8 8 4, .hbRun 0 0xFFFD0 0xFFFFF 4, .hbRun 0 0xFFFD0 0x100000 4, .hbRun 0 0xFFFC0 0x100000 4,
              .hbRun 0 0xFFFC0 0xFFFF0 4, .vmag 0xFFFF0 0xFFFF9 1, .vclear 0xFFFF0 2, .dlTap 0 0x100000 0,
              .chInfo 0 0xFFFF8, .firGenlp 0 0xFFFF8 3 0x3FD0000000000000, .gzRun 0 0x100000 0xFFFE4 1,
              .gzRun 0 0xFFFF0 0xFFFE8 1].map
                fun i => (misalignedOf configured i, outsideOf configured i)) =
            [(some 8, none), (some 0xFFFFF, some 0xFFFD0), (none, some 0xFFFD0), (none, some 0x100000), (none, none),
              (some 0xFFFF9, some 0xFFFF9), (none, some 0xFFFF0), (none, some 0x100000), (none, some 0xFFFF8),
              (none, some 0xFFFF8), (some 0xFFFE4, some 0x100000), (none, some 0xFFFE8)] := by
  refine ⟨?_, ?_, ?_, by decide +kernel, by decide +kernel⟩
  · rintro u count ⟨⟩
    decide
  · intro b info h
    obtain ⟨rfl, -⟩ := Prod.mk.inj (Option.some.inj h)
    decide +kernel
  · unfold lineReady
    trivial

/-- The order A, B, D, alignment before range, on one command. -/
theorem test_region_order :
    [faultOf (ran (.vsub 0x1 0x1 0x1 2) (loaded [])), faultOf (ran (.vsub 0x100000 0xF 0x1 2) (loaded [])),
        faultOf (ran (.vsub 0x100000 0 0x8 2) (loaded [])), faultOf (ran (.vsub 0xFFFF0 0xFFFF0 0 2) (loaded [])),
        faultOf (ran (.vsub 0xFFFE0 0xFFFF0 0x100000 2) (loaded [])), faultOf (ran (.vsub 0 0 0xFFFF0 2) (loaded [])),
        faultOf (ran (.vsub 0xFFFF0 0xFFFF0 0xFFFF0 1) (loaded [])),
        faultOf (ran (.vsub 0xFFFFFFF0 0xFFFFFFF0 0xFFFFFFF0 0) (loaded []))] =
      [some (.operandMisaligned, 0x1), some (.operandMisaligned, 0xF), some (.operandMisaligned, 0x8),
        some (.operandRange, 0xFFFF0), some (.operandRange, 0xFFFF0), some (.operandRange, 0xFFFF0), some (.none, 0),
        some (.none, 0)] := by decide +kernel

theorem witness_ZeroGuards :
    isFinite 0x7FEFFFFFFFFFFFFF = true ∧ isFinite 0x8000000000000000 = true ∧ isZero 0 = true ∧
      isZero 0x8000000000000000 = true := by decide +kernel

theorem witness_SumIsNearest :
    isFinite 0x7FEFFFFFFFFFFFFF = true ∧ isFinite 0xFFEFFFFFFFFFFFFF = true ∧
      isFinite (fadd 0x7FEFFFFFFFFFFFFF 0xFFEFFFFFFFFFFFFF) = true ∧ isFinite 0x0000000000000001 = true ∧
        isFinite (fadd 0x3FF0000000000000 0x3C90000000000001) = true := by decide +kernel

theorem witness_ArithmeticRoundsToNearestEven :
    ∀ y ∈ [0x0000000000000001#64, 0x8000000000000001#64, 0x7FEFFFFFFFFFFFFF#64, 0xFFEFFFFFFFFFFFFF#64],
      isFinite y = true ∧ isZero y = false := by
  simp only [List.forall_mem_cons, List.not_mem_nil, false_implies, implies_true, and_true]; decide +kernel

/-- Ties to even of a sum, a product and a quotient; overflow; the root of 2 and of the least positive value. -/
theorem test_rounding :
    [fadd 0x3FF0000000000001 0x3CA0000000000000, fadd 0x3FF0000000000000 0x3CA0000000000000,
        fmul 0x0000000000000001 0x3FE0000000000000, fmul 0x0000000000000003 0x3FE0000000000000,
        fdiv 0x0000000000000001 0x4000000000000000, fdiv 0x3FF0000000000000 0xC008000000000000,
        fsub 0x7FEFFFFFFFFFFFFF 0xFC90000000000000, fmul 0x7FEFFFFFFFFFFFFF 0xC000000000000000,
        fsqrt 0x4000000000000000, fsqrt 0x0000000000000001] =
      [0x3FF0000000000002, 0x3FF0000000000000, 0, 2, 0, 0xBFD5555555555555, 0x7FF0000000000000, 0xFFF0000000000000,
        0x3FF6A09E667F3BCD, 0x1E60000000000000] := by decide +kernel

theorem witness_SquareRootIsNearest :
    (∀ x ∈ [0x0000000000000001#64, 0x4000000000000000#64, 0x7FEFFFFFFFFFFFFF#64],
      isFinite x = true ∧ isZero x = false ∧ signBit x = false) ∧
      (∀ z ∈ [0x3FF6A09E667F3BCE#64, 0x7FEFFFFFFFFFFFFF#64],
        isFinite z = true ∧ signBit z = false ∧ unitsOf (fsqrt 0x4000000000000000) < unitsOf z) ∧
        ∀ z ∈ [0x3FF6A09E667F3BCC#64, 0#64],
          isFinite z = true ∧ signBit z = false ∧ unitsOf z < unitsOf (fsqrt 0x4000000000000000) := by
  simp only [List.forall_mem_cons, List.not_mem_nil, false_implies, implies_true, and_true]; decide +kernel

theorem witness_DelayLineConfigureAndPush :
    ((3#4).toNat < Config.dlUnits ∧ 1 ≤ (1#32).toNat ∧ (4096#32).toNat ≤ Config.dlMaxSize ∧
        (0#32).toNat < (1#32).toNat ∧ (4095#32).toNat < (4096#32).toNat) ∧
      (configured.dlAt (0#4).toNat).cfg = true ∧ LegalCpxs 0xFFFF0 (1#32).toNat :=
  ⟨by decide +kernel, by decide +kernel, legal_regions.1.2.1⟩

theorem witness_DelayLineTapAndMac :
    configured.dmem.wf = true ∧ (0#4).toNat < Config.dlUnits ∧ (configured.dlAt (0#4).toNat).cfg = true ∧
      LegalCpxs 0xFFFF0 1 ∧ LegalReals 0 (131072#32).toNat ∧ LegalReals 0xFFFFFFF8 (0#32).toNat :=
  ⟨by decide +kernel, by decide, by decide +kernel, legal_regions.1.2.1, legal_regions.2.1.1, legal_regions.2.1.2.2⟩

/-- A line of size 4 and delay 1: the bounds of `k` are 1 and 3. -/
theorem witness_DelayLineIsAFifo :
    (let l := configured.dlAt 0
     (1 ≤ l.size ∧ l.last < l.size) ∧ ∀ k ∈ [1, 3], k < (List.replicate 5 Cpx.zero).length ∧ l.delay ≤ k ∧ k < l.size) := by
  simp only [List.forall_mem_cons, List.not_mem_nil, false_implies, implies_true, and_true]; decide +kernel

theorem witness_HalfbandConfigure :
    (1#4).toNat < Config.hbUnits ∧ ((2#32 = 2 ∨ 2#32 = 4) ∧ (4#32 = 2 ∨ 4#32 = 4)) ∧
      (∀ m ∈ [0#32, 13#32], m.toNat < 14) ∧
        (∀ n ∈ [3#32, 255#32], n.toNat % 2 = 1 ∧ 3 ≤ n.toNat ∧ n.toNat ≤ Config.hbMaxTaps ∧ LegalReals 0 n.toNat) ∧
          LegalReals 0xFFFE8 (3#32).toNat := by
  unfold LegalReals LegalRegion
  simp only [List.forall_mem_cons, List.not_mem_nil, false_implies, implies_true, and_true]; decide +kernel

theorem witness_HalfbandRun :
    configured.dmem.wf = true ∧ (0#4).toNat < Config.hbUnits ∧ (configured.hbAt (0#4).toNat).cfg = true ∧
      LegalCpxs 0xFFFC0 (4#32).toNat ∧ LegalCpxs 0xFFFF0 ((configured.hbAt (0#4).toNat).count (4#32).toNat) := by
  unfold LegalCpxs LegalRegion; decide +kernel

/-- The first output of a fresh CIC3 pass and of one with a pending sample, and the last outputs of a FIR pass of 3 taps
over 3 samples in each phase. -/
theorem witness_PassOutputsAndCounts :
    (let st := PassState.zero 2
     2 * 0 + 3 < ([st.xEven, st.xOdd] ++ (if st.hasPend then [st.pend] else []) ++ [Cpx.zero, Cpx.zero]).length) ∧
      (let st := { PassState.zero 2 with hasPend := true }
       2 * 0 + 3 < ([st.xEven, st.xOdd] ++ (if st.hasPend then [st.pend] else []) ++ [Cpx.zero]).length) ∧
        (PassState.zero 2).hist.length = (List.replicate 3 fOne).length - 1 ∧
          (List.replicate 3 fOne).length ≤ (List.replicate 3 Cpx.zero).length ∧
            1 < ((List.replicate 3 Cpx.zero).length + 1 - (0 : Fin 2).val) / 2 ∧
              0 < ((List.replicate 3 Cpx.zero).length + 1 - (1 : Fin 2).val) / 2 := by decide

/-- Taps of length 3 with calls of 3 samples, and a call of 2. -/
theorem witness_PassesContinueAcrossCalls :
    (1 ≤ (List.replicate 3 fOne).length ∧ (PassState.zero 2).hist.length = (List.replicate 3 fOne).length - 1 ∧
        (List.replicate 3 fOne).length ≤ (List.replicate 3 Cpx.zero).length) ∧
      (List.replicate 2 Cpx.zero).length < (List.replicate 3 fOne).length := by decide

theorem witness_DesignTableMeetsItsConstraints :
    ∀ d ∈ [(1 : Fin 14), 13], 1 ≤ d.val ∧ ∀ k ∈ [1, hbTaps d - 2], k < hbTaps d ∧ k % 2 = 1 ∧ k ≠ (hbTaps d - 1) / 2 := by
  simp only [List.forall_mem_cons, List.not_mem_nil, false_implies, implies_true, and_true]; decide +kernel

theorem witness_ChainBuild :
    State.reset.dmem.wf = true ∧ (1#4).toNat < Config.chainUnits ∧ 1#32 ≠ 0 ∧ LegalRegion 0xFFFF0 1 16 8 ∧
      LegalRegion 0x8 1 16 8 :=
  ⟨by decide, by decide, by decide, legal_regions.2.2.1, legal_regions.2.2.2.1⟩

theorem witness_ChainRateIsExact : 1#32 ≠ 0 ∧ 0xFFFFFFFF#32 ≠ 0 := by decide

/-- A build with stages, three of them merged, and one without. -/
theorem witness_ChainStagesFollowTheSelection :
    (2048000#32 ≠ 0 ∧ (buildChain 2048000 1 0).stages.map (fun g => g.decim) = [.four, .four, .four, .two] ∧
        2 + 1 < (buildChain 2048000 1 0).stages.length) ∧
      16000#32 ≠ 0 ∧ (buildChain 16000 1 0).stages = [] := by decide +kernel

theorem witness_ChainProcess :
    (configured.dmem.wf = true ∧ (0#4).toNat < Config.chainUnits ∧ (8#32).toNat ≤ Config.chMaxIn ∧
        LegalCpxs 0xFFF80 (8#32).toNat ∧ LegalCpxs 0xFFFE0 (chainCount (configured.chAt (0#4).toNat).stages (8#32).toNat)) ∧
      (65536#32).toNat ≤ Config.chMaxIn ∧ LegalCpxs 0 (65536#32).toNat ∧ (State.reset.chAt (1#4).toNat).stages = [] ∧
        LegalCpxs 0 (chainCount (State.reset.chAt (1#4).toNat).stages (65536#32).toNat) := by
  unfold LegalCpxs LegalRegion; decide +kernel

theorem witness_ChainInfo :
    configured.dmem.wf = true ∧ (0#4).toNat < Config.chainUnits ∧
      (configured.chAt (0#4).toNat).nstages ≤ Config.maxStages ∧
        LegalRegion 0xFFFF0 (configured.chAt (0#4).toNat).nstages 16 8 ∧
          0 < (configured.chAt (0#4).toNat).stages.length ∧ LegalRegion 0xFFFFFFF8 (State.reset.chAt 1).nstages 16 8 := by
  unfold LegalRegion; decide +kernel

theorem witness_MergedStageEqualsTwoStages :
    (let g : Stage := ⟨1, .four, 0, PassState.zero 6, PassState.zero 6⟩
     let a : Stage := ⟨1, .two, 0, PassState.zero 6, PassState.zero 0⟩
     g.decim = .four ∧ a.decim = .two ∧ a.design = g.design ∧ a.pass0 = g.pass0 ∧ a.pass0 = g.pass1) := by decide

theorem witness_FirGenerators :
    State.reset.dmem.wf = true ∧ (∀ mode ∈ [0#4, 2#4], mode.toNat ≤ 2) ∧
      (∀ n ∈ [1#32, 1023#32], n.toNat % 2 = 1 ∧ n.toNat ≤ Config.firMaxTaps ∧ LegalReals 0 n.toNat) ∧
        (∀ k ∈ [0x0000000000000001#64, 0x3FDFFFFFFFFFFFFF#64], flt fZero k = true ∧ flt k fHalf = true) ∧
          flt 0x0000000000000001 0x3FDFFFFFFFFFFFFF = true := by
  unfold LegalReals LegalRegion
  simp only [List.forall_mem_cons, List.not_mem_nil, false_implies, implies_true, and_true]; decide +kernel

theorem witness_FirTransforms :
    State.reset.dmem.wf = true ∧
      (∀ n ∈ [1#32, 1023#32], 1 ≤ n.toNat ∧ n.toNat ≤ Config.firMaxTaps ∧ LegalReals 0 n.toNat ∧ n.toNat % 2 = 1) ∧
        (1024#32).toNat ≤ Config.firMaxTaps ∧ LegalReals 0xFE000 (1024#32).toNat := by
  unfold LegalReals LegalRegion
  simp only [List.forall_mem_cons, List.not_mem_nil, false_implies, implies_true, and_true]; decide +kernel

theorem witness_FirConfigure :
    ((3#4).toNat < Config.firUnits ∧ 1 ≤ (1#32).toNat ∧ (1024#32).toNat ≤ Config.firMaxTaps ∧
        LegalReals 0xFE000 (1024#32).toNat ∧ LegalReals 0xFFFF8 (1#32).toNat) ∧
      ((0#4 = 0 ∧ (3#32).toNat < Config.dlUnits) ∧
        (1#4 = 1 ∧ 1 ≤ (1#32).toNat ∧ (8192#32).toNat ≤ Config.firMaxBlock ∧ (2#32).toNat ≤ (1#32).toNat + 1)) := by
  unfold LegalReals LegalRegion; decide +kernel

theorem witness_FirRun :
    (configured.dmem.wf = true ∧ (0#4).toNat < Config.firUnits ∧ (configured.firAt (0#4).toNat).cfg = true ∧
        LegalCpxs 0xFFFF0 (1#32).toNat ∧ (configured.firAt (0#4).toNat).mode = .td ∧
          (configured.dlAt (configured.firAt (0#4).toNat).dl).cfg = true) ∧
      (1#4).toNat < Config.firUnits ∧ (configured.firAt (1#4).toNat).cfg = true ∧ LegalCpxs 0xFFFE0 (2#32).toNat ∧
        (configured.firAt (1#4).toNat).mode = .fd ∧ (2#32).toNat = (configured.firAt (1#4).toNat).blk ∧
          (configured.firAt (1#4).toNat).xtail.length = (configured.firAt (1#4).toNat).ntaps - 1 ∧
            fdBounded (configured.firAt (1#4).toNat).taps
              ((configured.firAt (1#4).toNat).xtail ++ readCpxs configured.dmem 0xFFFE0 2) = true := by
  unfold LegalCpxs LegalRegion; decide +kernel

/-- R352: `[1, 1]` on the block (1, 0), (2, 0) has the ideal sums 1 and 3, and the reference gives them; a value off by
a unit of 2^-1074 is near only where the implementation's tolerance allows. -/
theorem test_fd_ideal :
    (let taps := [fOne, fOne]
     let w := [Cpx.zero, ⟨fOne, 0⟩, ⟨fTwo, 0⟩]
     [fdReference taps w 0, fdReference taps w 1] = [⟨fOne, 0⟩, ⟨fThree, 0⟩] ∧
       [fdIdeal Cpx.re taps w 0, fdIdeal Cpx.re taps w 1, fdIdeal Cpx.im taps w 1] = [2 ^ 2148, 3 * 2 ^ 2148, 0] ∧
         fdBounded taps w = true ∧ fdScale taps w = 6 * 2 ^ 2148 ∧ fdBounded [0x7FEFFFFFFFFFFFFF] w = false ∧
           fdErrorBound taps [Cpx.zero] = 0) := by decide +kernel

theorem witness_IirCommands :
    (configured.dmem.wf = true ∧ (0#4).toNat < Config.iirUnits ∧ (configured.iirAt (0#4).toNat).cfg = true ∧
        LegalCpxs 0xFFFF0 (1#32).toNat) ∧
      ∀ mode ∈ [0#4, 1#4], (mode = 0 ∨ mode = 1) ∧ ∀ n ∈ [1#32, 16#32], 1 ≤ n.toNat ∧ n.toNat ≤ 16 ∧
        LegalReals 0xFFD80 (if mode = 0 then 2 * n.toNat + 1 else 5 * n.toNat) := by
  unfold LegalCpxs LegalReals LegalRegion
  simp only [List.forall_mem_cons, List.not_mem_nil, false_implies, implies_true, and_true]; decide +kernel

theorem witness_IirRecursion :
    (let g := configured.iirAt 0
     g.mode = .direct ∧ g.b = 0x3FF0000000000000 :: [0] ∧ [0#64].length = g.order ∧ g.re.HasLength g.order ∧
       g.im.HasLength g.order ∧ 1 ≤ g.order) := by
  unfold Hist.HasLength; decide +kernel

theorem witness_IirRecursion_cascade :
    (let c : Section := loadSection [] 0
     c.re = ⟨[0, 0], [0, 0]⟩ ∧ c.im = ⟨[0, 0], [0, 0]⟩) ∧
      (configuredIir 1 1 []).mode = .cascade ∧ clearHistories (configuredIir 1 2 []) = configuredIir 1 2 [] ∧
        clearHistories (configured.iirAt 0) = configured.iirAt 0 := by decide +kernel

theorem witness_GoertzelConfigure :
    (3#4).toNat < Config.gzUnits ∧ (∀ mode ∈ [0#4, 1#4, 2#4], mode.toNat ≤ 2) ∧ 1#32 ≠ 0 ∧
      (∀ p ∈ [0#32, 2#32], p.toNat ≤ 2) ∧ isFinite 0xC0BF400000000000 = true ∧ isFinite 0x0000000000000001 = true ∧
        flt fZero 0x0000000000000001 = true ∧
          (∀ k ∈ [0#64, 0x8000000000000000#64, 0x7FEFFFFFFFFFFFFF#64], isFinite k = true ∧ fle fZero k = true) ∧
            ∀ k ∈ [0#64, fOne], fle fZero k = true ∧ fle k fOne = true := by
  simp only [List.forall_mem_cons, List.not_mem_nil, false_implies, implies_true, and_true]; decide +kernel

theorem witness_GoertzelRun :
    configured.dmem.wf = true ∧ (0#4).toNat < Config.gzUnits ∧ (configured.gzAt (0#4).toNat).cfg = true ∧
      (configured.gzAt (0#4).toNat).cnt < (configured.gzAt (0#4).toNat).nbin ∧ LegalCpxs 0xFFFB0 (5#32).toNat ∧
        LegalRegion 0xFFFC0 (((configured.gzAt (0#4).toNat).cnt + (5#32).toNat) / (configured.gzAt (0#4).toNat).nbin) 32 8 ∧
          LegalRegion 0xFFFFFFF8
            (((configured.gzAt (0#4).toNat).cnt + (0#32).toNat) / (configured.gzAt (0#4).toNat).nbin) 32 8 := by
  unfold LegalCpxs LegalRegion; decide +kernel

/-- The last sample but one of a bin, and the last. -/
theorem witness_GoertzelBins :
    (configured.gzAt 0).cnt + ([] : List Cpx).length < (configured.gzAt 0).nbin ∧
      (configured.gzAt 0).cnt + [Cpx.zero].length = (configured.gzAt 0).nbin ∧ [Cpx.zero] ≠ [] := by decide +kernel

/-- The detector of GZ.CFG in each mode, and bins that contradict the bit of a three-tone one: none and one of one where
`lim` is 0, one and two of two. -/
theorem witness_GoertzelDetectors :
    ([gzModeOf 0, gzModeOf 1, gzModeOf 2] = [.single, .threeTone, .adaptive]) ∧
      ∀ lim ∈ [0, 2, 2 ^ 32 - 1],
        (let g : Goertzel := { Goertzel.reset with mode := .threeTone, k := fOne, lim := lim }
         g.mode = .threeTone ∧ g.dcnt = 0 ∧ g.lim < 2 ^ 32 ∧
           (∀ p ∈ [(fTwo, fOne, fOne), (fOne, 0#64, fOne)],
             flt (fmul g.k (fdiv (fadd p.2.1 p.2.2) fTwo)) p.1 ≠ g.bit) ∧
             ([(fTwo, fOne, fOne)].length < max g.lim 1 ↔ lim ≠ 0) ∧
               ([(fTwo, fOne, fOne), (fOne, 0#64, fOne)].length = max g.lim 1 ↔ lim = 2)) := by
  simp only [List.forall_mem_cons, List.not_mem_nil, false_implies, implies_true, and_true]; decide +kernel

/-- 47999.99… and the least positive value bound the frequency and the sample rate; the phase runs from 0 to below
`TWO_PI`. -/
theorem witness_NcoCommands :
    (configured.dmem.wf = true ∧ (0#4).toNat < Config.ncoUnits ∧ (configured.ncoAt (0#4).toNat).cfg = true ∧
        LegalCpxs 0xFFFF0 (1#32).toNat) ∧
      (∀ k1 ∈ [0x0000000000000001#64, 0x7FEFFFFFFFFFFFFF#64], isFinite k1 = true ∧ flt fZero k1 = true ∧
        flt (fneg k1) 0x8000000000000000 = true ∧ flt 0x8000000000000000 k1 = true) ∧
        (∀ k2 ∈ [0#64, 0x8000000000000000#64, 0x401921FB54442D17#64],
          fle fZero k2 = true ∧ flt k2 Config.twoPi = true) ∧
          ∀ k0 ∈ [0xC0E76FFFFFFFFFFF#64, 0x40E76FFFFFFFFFFF#64], isFinite k0 = true ∧
            flt (fneg (configured.ncoAt (0#4).toNat).fs) k0 = true ∧ flt k0 (configured.ncoAt (0#4).toNat).fs = true := by
  unfold LegalCpxs LegalRegion
  simp only [List.forall_mem_cons, List.not_mem_nil, false_implies, implies_true, and_true]; decide +kernel


/-- The ends of both ranges. -/
theorem witness_NcoPhaseStaysInRange :
    (∀ inc ∈ [fneg Config.twoPi, 0x8000000000000000#64, Config.twoPi],
      fle (fneg Config.twoPi) inc = true ∧ fle inc Config.twoPi = true) ∧
      ∀ phase ∈ [0x8000000000000000#64, 0#64, Config.twoPi],
        fle fZero phase = true ∧ fle phase Config.twoPi = true := by
  simp only [List.forall_mem_cons, List.not_mem_nil, false_implies, implies_true, and_true]; decide +kernel


/-- TX1, TX2, TX3, TX12 and TX11: START, a START refused by FAULT, ABORT over START, `CP` while busy, the line. -/
theorem test_host_moves :
    ([(1#32, State.reset), (1#32, takeFault .badUnit 2 State.reset), (3#32, State.reset)].map fun c =>
        statusWord (writeCsr c.2 0x10 c.1).status) = [1, 2, 0] ∧
      (writeCsr (loaded []) 0x18 0x80).cp = 0 ∧
        (let s := takeFault .badUnit 2 { State.reset with irqEn := irqOfWord 2 }
         irqLine s = true ∧ irqLine (writeCsr s 0x34 2) = false) := by decide +kernel

/-- TX4, TX5: an abort and a soft reset pending at a boundary. -/
theorem test_latches :
    ((stepped { loaded [] with cp := 0x80, abortReq := true }).map fun t =>
        (statusWord t.status, irqWord t.irqPend, t.cp, t.retired)) = some (8, 8, 0x80, 0) ∧
      ((stepped { loaded [] with cp := 0x80, lc := 7, sresetReq := true, abortReq := true, dmem := [(5, 9)] }).map fun t =>
        (statusWord t.status, irqWord t.irqPend, t.cp, t.lc, readByte t.dmem 5)) = some (0, 0, 0, 0, 9) := by decide +kernel

/-- A stored program word runs at the next step (P1, its LSET), and the descriptor at the end of DMEM is fetched (TK5)
where the one past it is not (TK6). -/
theorem test_steps :
    ((stepped (State.reset.withFetchWord 160 0x00000003_00000000_00000000_00000000_00000003)).map fun t =>
        (t.lc, t.cp, t.retired)) = some (3, 0x40, 1) ∧
      (stepped atLastNop).map (fun t => (t.cp, t.retired)) = some (0x100000, 1) ∧
        ((stepped { loaded [] with cp := 0x100000 }).map fun t => (t.cause, t.faultInfo, t.faultCp, t.retired)) =
          some (.fetchRange, 0x100000, 0x100000, 0) := by decide +kernel

end Sys2Proof.Tests
end

section
/-! PROOFS. The binary commands on CPX arrays (spec/41_complex_arith.md R220, R224-R227). -/

namespace Sys2Proof.Machine

/-- The region checks of a command on two CPX sources and a CPX destination pass on legal arrays. -/
theorem regionChecks_ok_of_legalCpxs {a b d : Word} {n : Nat} (ha : LegalCpxs a n) (hb : LegalCpxs b n)
    (hd : LegalCpxs d n) : ∀ c ∈ regionChecks [cpxRegion a n, cpxRegion b n, cpxRegion d n], c.ok = true := by
  apply regionChecks_ok
  simp only [List.forall_mem_cons, List.not_mem_nil, false_implies, implies_true, and_true]
  exact ⟨(cpxRegion_ok_iff a n).mpr ha, (cpxRegion_ok_iff b n).mpr hb, (cpxRegion_ok_iff d n).mpr hd⟩

/-- R220: both sources are read before the destination is written, so the regions may overlap. -/
theorem binaryCpx_completes (f : Cpx → Cpx → Cpx) {s : State} {a b d n : Word} (hwf : s.dmem.wf = true)
    (ha : LegalCpxs a n.toNat) (hb : LegalCpxs b n.toNat) (hd : LegalCpxs d n.toNat) :
    ∃ t, binaryCpx f a b d n s = .next t ∧
      (∀ k < n.toNat,
        rdC t.dmem (d.toNat + 16 * k) = f (rdC s.dmem (a.toNat + 16 * k)) (rdC s.dmem (b.toNat + 16 * k))) ∧
      KeptOutside s t d.toNat (16 * n.toNat) ∧ Completed s t ∧ SameUnits s t ∧ t.lastCount = s.lastCount := by
  have hlen : (List.zipWith f (readCpxs s.dmem a.toNat n.toNat) (readCpxs s.dmem b.toNat n.toNat)).length
      = n.toNat := by simp
  obtain ⟨hdone, hunits, hcount, hdmem⟩ := complete_setDmem s
    (writeCpxs s.dmem d.toNat (List.zipWith f (readCpxs s.dmem a.toNat n.toNat) (readCpxs s.dmem b.toNat n.toNat)))
  refine ⟨_, command_of_ok (regionChecks_ok_of_legalCpxs ha hb hd), ?_, ?_, hdone, hunits, hcount⟩
  · intro k hk
    rw [hdmem, rdC_writeCpxs hwf _ _ (by rw [hlen]; exact hk)]
    simp
  · have hkept := keptOutside_writeCpxs hwf d.toNat _ hdmem
    rwa [hlen] at hkept

/-- Settles O25: each of the four commands is `binaryCpx` of its operation. -/
theorem binaryCommandsComputeElementwise : Obligations.BinaryCommandsComputeElementwise := by
  unfold Obligations.BinaryCommandsComputeElementwise
  intro s a b d n hwf ha hb hd
  simp only [List.forall_mem_cons, List.not_mem_nil, false_implies, implies_true, and_true]
  exact ⟨binaryCpx_completes cadd hwf ha hb hd, binaryCpx_completes csub hwf ha hb hd,
    binaryCpx_completes cmul hwf ha hb hd, binaryCpx_completes cdiv hwf ha hb hd⟩

end Sys2Proof.Machine
end

section
/-! PROOFS. Rounding to nearest with ties to even (spec/00_scope.md R10, R12), stated on magnitude patterns. The patterns
continue past the one of infinity, so that rounding is first settled without overflow (`roundPattern`), and then cut at
infinity (`roundMag`). -/

namespace Sys2Proof.Machine

/-! ## Magnitude patterns and their values -/

/-- The value of a magnitude pattern in units of 2^-1074; the one of infinity, and those past it, stand for the values an
unbounded exponent would give them. -/
def magUnits (m : Nat) : Nat :=
  if m / 2 ^ 52 = 0 then m % 2 ^ 52 else (2 ^ 52 + m % 2 ^ 52) * 2 ^ (m / 2 ^ 52 - 1)

theorem unitsOf_eq_magUnits (x : F64) : unitsOf x = magUnits (magBits x) := rfl

/-- The value of exponent step `k` and significand `c`; the carry to `2^53` is the next exponent's first value. -/
theorem magUnits_scaled {k c : Nat} (hlo : k = 0 ∨ 2 ^ 52 ≤ c) (hhi : c ≤ 2 ^ 53) :
    magUnits (k * 2 ^ 52 + c) = c * 2 ^ k := by
  unfold magUnits
  by_cases hsub : c < 2 ^ 52
  · obtain rfl : k = 0 := by omega
    have hdiv : (0 * 2 ^ 52 + c) / 2 ^ 52 = 0 := by omega
    rw [if_pos hdiv, Nat.mod_eq_of_lt (by omega)]
    simp
  · by_cases hcarry : c < 2 ^ 53
    · have hdiv : (k * 2 ^ 52 + c) / 2 ^ 52 = k + 1 := by omega
      have hmod : 2 ^ 52 + (k * 2 ^ 52 + c) % 2 ^ 52 = c := by omega
      rw [if_neg (by omega), hdiv, hmod, Nat.add_sub_cancel]
    · obtain rfl : c = 2 ^ 53 := by omega
      have hdiv : (k * 2 ^ 52 + 2 ^ 53) / 2 ^ 52 = k + 2 := by omega
      have hmod : 2 ^ 52 + (k * 2 ^ 52 + 2 ^ 53) % 2 ^ 52 = 2 ^ 52 := by omega
      rw [if_neg (by omega), hdiv, hmod, show k + 2 - 1 = k + 1 from rfl, pow_succ 2 k]
      ring

/-- Every pattern has an exponent step and a significand below the carry. -/
theorem exists_scaled (m : Nat) : ∃ k c, m = k * 2 ^ 52 + c ∧ (k = 0 ∨ 2 ^ 52 ≤ c) ∧ c < 2 ^ 53 := by
  by_cases hsub : m < 2 ^ 52
  · exact ⟨0, m, by omega, .inl rfl, by omega⟩
  · exact ⟨m / 2 ^ 52 - 1, 2 ^ 52 + m % 2 ^ 52, by omega, .inr (by omega), by omega⟩

theorem magUnits_lt_succ (m : Nat) : magUnits m < magUnits (m + 1) := by
  obtain ⟨k, c, rfl, hlo, hhi⟩ := exists_scaled m
  rw [magUnits_scaled hlo hhi.le, Nat.add_assoc, magUnits_scaled (by omega) (by omega)]
  exact Nat.mul_lt_mul_of_pos_right (Nat.lt_succ_self c) (Nat.two_pow_pos k)

theorem magUnits_strictMono : StrictMono magUnits := strictMono_nat_of_lt_succ magUnits_lt_succ

@[simp] theorem magUnits_zero : magUnits 0 = 0 := by decide

/-- A value is a multiple of every power of two it exceeds by 2^52. -/
theorem dvd_magUnits {m j : Nat} (h : 2 ^ (52 + j) ≤ magUnits m) : 2 ^ j ∣ magUnits m := by
  obtain ⟨k, c, rfl, hlo, hhi⟩ := exists_scaled m
  rw [magUnits_scaled hlo hhi.le] at h ⊢
  have hpow : 2 ^ (52 + j) < 2 ^ (53 + k) := by
    calc 2 ^ (52 + j) ≤ c * 2 ^ k := h
      _ < 2 ^ 53 * 2 ^ k := Nat.mul_lt_mul_of_pos_right hhi (Nat.two_pow_pos k)
      _ = 2 ^ (53 + k) := (pow_add 2 53 k).symm
  have hjk : j ≤ k := by have := (Nat.pow_lt_pow_iff_right (by omega : 1 < 2)).mp hpow; omega
  exact Dvd.dvd.mul_left (pow_dvd_pow 2 hjk) c

/-! ## Nearest, ties to even -/

/-- The pattern `r` has the value nearest `num / den` units, and the even last bit where it is one of two nearest: the
midpoint towards every other pattern is not passed, and is reached only from an even `r`. -/
structure NearestEven (num den r : Nat) : Prop where
  above : ∀ m, r < m → 2 * num < (magUnits r + magUnits m) * den ∨
    2 * num = (magUnits r + magUnits m) * den ∧ r % 2 = 0
  below : ∀ m, m < r → (magUnits r + magUnits m) * den < 2 * num ∨
    (magUnits r + magUnits m) * den = 2 * num ∧ r % 2 = 0

/-- The magnitude pattern of the rounded quotient before the cut at infinity. -/
def roundPattern (num den : Nat) : Nat :=
  ulpShift num den * 2 ^ 52 + roundQuotient num (den * 2 ^ ulpShift num den)

theorem roundMag_eq_min (num den : Nat) : roundMag num den = min (roundPattern num den) infBits := rfl

/-- The two outcomes of `roundQuotient`: down, not beyond the half, or up, not below it; the result of a tie is even. -/
theorem roundQuotient_cases (num den : Nat) :
    (roundQuotient num den = num / den ∧ 2 * (num % den) ≤ den ∧ (2 * (num % den) = den → num / den % 2 = 0)) ∨
      (roundQuotient num den = num / den + 1 ∧ den ≤ 2 * (num % den) ∧
        (2 * (num % den) = den → (num / den + 1) % 2 = 0)) := by
  unfold roundQuotient
  dsimp only
  split
  · rename_i hup
    simp only [Bool.or_eq_true, Bool.and_eq_true, decide_eq_true_eq, beq_iff_eq] at hup
    right
    omega
  · rename_i hdown
    simp only [Bool.or_eq_true, Bool.and_eq_true, decide_eq_true_eq, beq_iff_eq, not_or, not_and] at hdown
    left
    omega

/-- The significand of the quotient cut off at the unit in the last place. -/
theorem significand_bounds (num den : Nat) :
    (ulpShift num den = 0 ∨ 2 ^ 52 ≤ num / (den * 2 ^ ulpShift num den)) ∧
      num / (den * 2 ^ ulpShift num den) < 2 ^ 53 := by
  rw [← Nat.div_div_eq_div_mul]
  unfold ulpShift
  generalize num / den = v
  constructor
  · by_cases hk : v.log2 ≤ 52
    · exact .inl (by omega)
    · right
      have hv : v ≠ 0 := by rintro rfl; simp at hk
      rw [Nat.le_div_iff_mul_le (Nat.two_pow_pos _), ← pow_add, show 52 + (v.log2 - 52) = v.log2 by omega]
      exact Nat.log2_self_le hv
  · rw [Nat.div_lt_iff_lt_mul (Nat.two_pow_pos _), ← pow_add]
    calc v < 2 ^ (v.log2 + 1) := Nat.lt_log2_self
      _ ≤ 2 ^ (53 + (v.log2 - 52)) := Nat.pow_le_pow_right (by omega) (by omega)

/-- The midpoints towards the two neighbours decide. -/
theorem NearestEven.of_neighbours {num den r : Nat}
    (hup : 2 * num < (magUnits r + magUnits (r + 1)) * den ∨
      2 * num = (magUnits r + magUnits (r + 1)) * den ∧ r % 2 = 0)
    (hdown : ∀ p, r = p + 1 → (magUnits r + magUnits p) * den < 2 * num ∨
      (magUnits r + magUnits p) * den = 2 * num ∧ r % 2 = 0) :
    NearestEven num den r := by
  have hmono : ∀ {m m'}, m ≤ m' → (magUnits r + magUnits m) * den ≤ (magUnits r + magUnits m') * den := fun h =>
    Nat.mul_le_mul_right den (Nat.add_le_add_left (magUnits_strictMono.monotone h) _)
  constructor
  · intro m hm
    have hbeyond := hmono (show r + 1 ≤ m from hm)
    omega
  · intro m hm
    obtain ⟨p, rfl⟩ : ∃ p, r = p + 1 := ⟨r - 1, by omega⟩
    have hbefore := hmono (show m ≤ p by omega)
    have hmid := hdown p rfl
    omega

/-- Rounding before the cut at infinity is to nearest, ties to even: with `c` the significand cut off and `step` one of
its units, the quotient lies between the neighbours' `c * step` and `c * step + step`. -/
theorem roundPattern_nearestEven (num : Nat) {den : Nat} (hden : 0 < den) :
    NearestEven num den (roundPattern num den) := by
  obtain ⟨hlo, hhi⟩ := significand_bounds num den
  have hnum := Nat.div_add_mod' num (den * 2 ^ ulpShift num den)
  have hrest := Nat.mod_lt num (Nat.mul_pos hden (Nat.two_pow_pos (ulpShift num den)))
  have hround := roundQuotient_cases num (den * 2 ^ ulpShift num den)
  unfold roundPattern
  generalize ulpShift num den = k at *
  have hfloor : magUnits (k * 2 ^ 52 + num / (den * 2 ^ k)) * den = num / (den * 2 ^ k) * (den * 2 ^ k) := by
    rw [magUnits_scaled hlo hhi.le]
    ring
  have hceil : magUnits (k * 2 ^ 52 + num / (den * 2 ^ k) + 1) * den =
      num / (den * 2 ^ k) * (den * 2 ^ k) + den * 2 ^ k := by
    rw [Nat.add_assoc, magUnits_scaled (by omega) (by omega)]
    ring
  generalize num / (den * 2 ^ k) = c at *
  generalize num % (den * 2 ^ k) = rest at *
  generalize c * (den * 2 ^ k) = low at *
  generalize den * 2 ^ k = step at *
  rcases hround with ⟨hq, hhalf, htie⟩ | ⟨hq, hhalf, htie⟩
  · rw [hq]
    refine .of_neighbours ?_ fun p hp => ?_
    · rw [Nat.add_mul, hfloor, hceil]
      omega
    · have hlt : magUnits p * den < magUnits (k * 2 ^ 52 + c) * den :=
        Nat.mul_lt_mul_of_pos_right (magUnits_strictMono (by omega)) hden
      rw [Nat.add_mul]
      omega
  · rw [hq, ← Nat.add_assoc]
    refine .of_neighbours ?_ fun p hp => ?_
    · have hlt : magUnits (k * 2 ^ 52 + c + 1) * den < magUnits (k * 2 ^ 52 + c + 1 + 1) * den :=
        Nat.mul_lt_mul_of_pos_right (magUnits_lt_succ _) hden
      rw [Nat.add_mul]
      omega
    · obtain rfl : p = k * 2 ^ 52 + c := by omega
      rw [Nat.add_mul, hfloor, hceil]
      omega

/-! ## The cut at infinity -/

/-- Half a place above the largest finite value, in units of 2^-1074: a magnitude from here up rounds to infinity
(R12). -/
def overflowLimit : Nat := (2 ^ 1024 - 2 ^ 970) * 2 ^ 1074

/-- The limit is the midpoint of the largest finite value and the one infinity's pattern would have. -/
theorem two_mul_overflowLimit : 2 * overflowLimit = magUnits infBits + magUnits (infBits - 1) := by
  have hinf : infBits = 2046 * 2 ^ 52 + 2 ^ 52 := rfl
  have hmax : infBits - 1 = 2045 * 2 ^ 52 + (2 ^ 53 - 1) := rfl
  rw [hmax, hinf, magUnits_scaled (by omega) (by omega), magUnits_scaled (by omega) (by omega)]
  decide +kernel

theorem overflowLimit_pos : 0 < overflowLimit := by decide +kernel

/-- A nearest pattern reaches infinity's exactly from half a place above the largest finite value up: the tie goes to
infinity, whose pattern is even. -/
theorem NearestEven.infBits_le_iff {num den r : Nat} (hden : 0 < den) (h : NearestEven num den r) :
    infBits ≤ r ↔ overflowLimit * den ≤ num := by
  have hlimit : 2 * (overflowLimit * den) = (magUnits infBits + magUnits (infBits - 1)) * den := by
    rw [← Nat.mul_assoc, two_mul_overflowLimit]
  generalize overflowLimit * den = limit at *
  have hpos : 0 < infBits := by decide
  constructor
  · intro hr
    have hmid := h.below (infBits - 1) (by omega)
    have hle : (magUnits infBits + magUnits (infBits - 1)) * den ≤ (magUnits r + magUnits (infBits - 1)) * den :=
      Nat.mul_le_mul_right den (Nat.add_le_add_right (magUnits_strictMono.monotone hr) _)
    omega
  · intro hnum
    by_contra hr
    have hmid := h.above infBits (by omega)
    rw [Nat.add_comm] at hmid
    obtain rfl | hlt : r = infBits - 1 ∨ r < infBits - 1 := by omega
    · have hodd : (infBits - 1) % 2 = 1 := by decide
      omega
    · have hbelow : (magUnits infBits + magUnits r) * den < (magUnits infBits + magUnits (infBits - 1)) * den :=
        Nat.mul_lt_mul_of_pos_right (Nat.add_lt_add_left (magUnits_strictMono hlt) _) hden
      omega

/-- The rounded pattern is infinity's from the overflow limit up. -/
theorem roundMag_of_overflow {num den : Nat} (hden : 0 < den)
    (h : overflowLimit * den ≤ num) : roundMag num den = infBits := by
  rw [roundMag_eq_min]
  exact min_eq_right (((roundPattern_nearestEven num hden).infBits_le_iff hden).mpr h)

/-- Below the overflow limit the rounded pattern is finite and a nearest one, ties to even. -/
theorem roundMag_of_finite {num den : Nat} (hden : 0 < den)
    (h : num < overflowLimit * den) :
    roundMag num den < infBits ∧ NearestEven num den (roundMag num den) := by
  have hnear := roundPattern_nearestEven num hden
  have hlt : roundPattern num den < infBits := not_le.mp fun hle => (h.not_ge ((hnear.infBits_le_iff hden).mp hle))
  rw [roundMag_eq_min, min_eq_left hlt.le]
  exact ⟨hlt, hnear⟩

/-- No magnitude is nearer than the one of a nearest pattern, which is even where another is as near. -/
theorem NearestEven.natAbs_le {num den r : Nat} (hden : 0 < den) (h : NearestEven num den r) (m : Nat) :
    (((magUnits r * den : Nat) : Int) - num).natAbs ≤ (((magUnits m * den : Nat) : Int) - num).natAbs ∧
      ((((magUnits r * den : Nat) : Int) - num).natAbs = (((magUnits m * den : Nat) : Int) - num).natAbs →
        m ≠ r → r % 2 = 0) := by
  have hmid : ∀ {a b : Nat}, a < b → magUnits a * den < magUnits b * den := fun hab =>
    Nat.mul_lt_mul_of_pos_right (magUnits_strictMono hab) hden
  obtain hlt | rfl | hgt := lt_trichotomy m r
  · have hstep := hmid hlt
    have hbelow := h.below m hlt
    rw [Nat.add_mul] at hbelow
    omega
  · omega
  · have hstep := hmid hgt
    have habove := h.above m hgt
    rw [Nat.add_mul] at habove
    omega

/-! ## Signs and magnitudes of binary64 patterns -/

theorem signBit_eq_msb (x : F64) : signBit x = x.msb := (BitVec.msb_eq_decide x).symm

theorem magBits_eq_toNat_setWidth (x : F64) : magBits x = (x.setWidth 63).toNat := (BitVec.toNat_setWidth 63 x).symm

@[simp] theorem signBit_fneg (x : F64) : signBit (fneg x) = !signBit x := by
  have hmsb : (0x8000000000000000#64).msb = true := by decide
  rw [signBit_eq_msb, signBit_eq_msb, fneg, BitVec.msb_xor, hmsb, Bool.xor_true]

@[simp] theorem magBits_fneg (x : F64) : magBits (fneg x) = magBits x := by
  have hlow : (0x8000000000000000#64).setWidth 63 = 0#63 := by decide
  rw [magBits_eq_toNat_setWidth, magBits_eq_toNat_setWidth, fneg, BitVec.setWidth_xor, hlow, BitVec.xor_zero]

@[simp] theorem isFinite_fneg (x : F64) : isFinite (fneg x) = isFinite x := by rw [isFinite, magBits_fneg, isFinite]

@[simp] theorem intUnits_fneg (x : F64) : intUnits (fneg x) = -intUnits x := by
  simp only [intUnits, unitsOf_eq_magUnits, magBits_fneg, signBit_fneg]
  cases signBit x <;> simp

theorem toNat_packSign {mag : Nat} (neg : Bool) (h : mag < 2 ^ 63) :
    (packSign neg mag).toNat = (if neg then 2 ^ 63 else 0) + mag := by
  rw [packSign, BitVec.toNat_ofNat, Nat.mod_eq_of_lt (by split <;> omega)]

theorem signBit_packSign {mag : Nat} (neg : Bool) (h : mag < 2 ^ 63) : signBit (packSign neg mag) = neg := by
  rw [signBit, toNat_packSign neg h]
  cases neg
  · simpa using h
  · simp

theorem magBits_packSign {mag : Nat} (neg : Bool) (h : mag < 2 ^ 63) : magBits (packSign neg mag) = mag := by
  rw [magBits, toNat_packSign neg h]
  split <;> omega

theorem isFinite_iff {x : F64} : isFinite x = true ↔ magBits x < infBits := decide_eq_true_iff

theorem isNaN_of_isFinite {x : F64} (h : isFinite x = true) : isNaN x = false :=
  decide_eq_false (isFinite_iff.mp h).not_gt

theorem isInf_of_isFinite {x : F64} (h : isFinite x = true) : isInf x = false :=
  beq_false_of_ne (isFinite_iff.mp h).ne

theorem unitsOf_pos {x : F64} (h : isZero x = false) : 0 < unitsOf x := by
  have hne : magBits x ≠ 0 := by simpa [isZero] using h
  rw [unitsOf_eq_magUnits, ← magUnits_zero]
  exact magUnits_strictMono (Nat.pos_of_ne_zero hne)

/-! ## Rounding a signed quotient -/

theorem roundMag_le (num den : Nat) : roundMag num den ≤ infBits := Nat.min_le_right _ _

theorem roundMag_lt (num den : Nat) : roundMag num den < 2 ^ 63 :=
  (roundMag_le num den).trans_lt (by decide)

/-- A natural number with a sign. -/
def withSign (neg : Bool) (n : Nat) : Int := if neg then -(n : Int) else (n : Int)

theorem intUnits_eq_withSign (x : F64) : intUnits x = withSign (signBit x) (unitsOf x) := rfl

theorem withSign_mul_withSign (p q : Bool) (m n : Nat) : withSign p m * withSign q n = withSign (p != q) (m * n) := by
  cases p <;> cases q <;> simp [withSign]

theorem withSign_mul (neg : Bool) (n d : Nat) : withSign neg n * d = withSign neg (n * d) := by
  cases neg <;> simp [withSign]

@[simp] theorem withSign_zero (neg : Bool) : withSign neg 0 = 0 := by
  cases neg <;> rfl

theorem natAbs_withSign (neg : Bool) (n : Nat) : (withSign neg n).natAbs = n := by
  cases neg <;> simp [withSign]

theorem withSign_lt_zero_iff {neg : Bool} {n : Nat} (hn : 0 < n) : withSign neg n < 0 ↔ neg = true := by
  cases neg <;> simp [withSign, hn]

/-- An integer is its magnitude with its sign. -/
theorem withSign_decide_natAbs (z : Int) : withSign (decide (z < 0)) z.natAbs = z := by
  by_cases hlt : z < 0
  · rw [decide_eq_true hlt, withSign, if_pos rfl]
    omega
  · rw [decide_eq_false hlt, withSign, if_neg Bool.false_ne_true]
    omega

/-- The distance of two numbers of one sign is that of their magnitudes. -/
theorem natAbs_withSign_sub_same (neg : Bool) (a n : Nat) :
    (withSign neg a - withSign neg n).natAbs = ((a : Int) - n).natAbs := by
  cases neg
  · rfl
  · simp only [withSign, if_true]
    omega

/-- The distance of two numbers of opposite signs is the sum of their magnitudes. -/
theorem natAbs_withSign_sub_opposite (neg : Bool) (a n : Nat) :
    (withSign (!neg) a - withSign neg n).natAbs = a + n := by
  cases neg <;> simp only [withSign, Bool.not_true, Bool.not_false, Bool.false_eq_true, if_true, if_false] <;> omega

theorem intUnits_packSign {mag : Nat} (neg : Bool) (h : mag < 2 ^ 63) :
    intUnits (packSign neg mag) = withSign neg (magUnits mag) := by
  rw [intUnits_eq_withSign, unitsOf_eq_magUnits, signBit_packSign neg h, magBits_packSign neg h]

theorem packSign_even {mag : Nat} (neg : Bool) (h : mag < 2 ^ 63) (heven : mag % 2 = 0) :
    (packSign neg mag).toNat % 2 = 0 := by
  rw [toNat_packSign neg h]
  split <;> omega

/-- A signed pattern with a nearest magnitude is nearest among the values of both signs: a value of the other sign is
no nearer than zero. -/
theorem NearestEven.signed {n den mag : Nat} (neg : Bool) (hden : 0 < den) (h : NearestEven n den mag)
    (hmag : mag < 2 ^ 63) (z : F64) :
    (intUnits (packSign neg mag) * den - withSign neg n).natAbs ≤ (intUnits z * den - withSign neg n).natAbs ∧
      ((intUnits (packSign neg mag) * den - withSign neg n).natAbs = (intUnits z * den - withSign neg n).natAbs →
        intUnits z ≠ intUnits (packSign neg mag) → (packSign neg mag).toNat % 2 = 0) := by
  obtain ⟨hle, htie⟩ := h.natAbs_le hden (magBits z)
  obtain ⟨hzero, hzeroTie⟩ := h.natAbs_le hden 0
  have heven := packSign_even neg hmag
  rw [intUnits_packSign neg hmag, intUnits_eq_withSign z, unitsOf_eq_magUnits, withSign_mul, withSign_mul,
    natAbs_withSign_sub_same]
  by_cases hsign : signBit z = neg
  · rw [hsign, natAbs_withSign_sub_same]
    refine ⟨hle, fun heq hne => heven (htie heq fun hsame => hne ?_)⟩
    rw [hsame]
  · rw [Bool.eq_not_of_ne hsign, natAbs_withSign_sub_opposite]
    rw [magUnits_zero, Nat.zero_mul] at hzero hzeroTie
    refine ⟨by omega, fun heq _ => heven ?_⟩
    omega

/-- `RoundsTo` with its two cases as fields: what it says from the overflow limit up, and below it. -/
structure Rounded (r : F64) (num : Int) (den : Nat) : Prop where
  overflow : overflowLimit * den ≤ num.natAbs → isInf r = true ∧ signBit r = decide (num < 0)
  finite : num.natAbs < overflowLimit * den →
    isFinite r = true ∧ ∀ z : F64, isFinite z = true →
      (intUnits r * den - num).natAbs ≤ (intUnits z * den - num).natAbs ∧
        ((intUnits r * den - num).natAbs = (intUnits z * den - num).natAbs → intUnits z ≠ intUnits r →
          r.toNat % 2 = 0)

theorem roundsTo_iff_rounded {r : F64} {num : Int} {den : Nat} : RoundsTo r num den ↔ Rounded r num den := by
  rw [RoundsTo, ← overflowLimit, ite_prop_iff_and, not_le]
  exact ⟨fun ⟨hover, hfin⟩ => ⟨hover, hfin⟩, fun h => ⟨h.overflow, h.finite⟩⟩

/-- R12: a signed quotient rounded by its magnitude is rounded to nearest, ties to even. -/
theorem roundUnits_rounded (neg : Bool) (n : Nat) {den : Nat} (hden : 0 < den) :
    Rounded (roundUnits neg n den) (withSign neg n) den := by
  have hlt := roundMag_lt n den
  unfold roundUnits
  constructor <;> rw [natAbs_withSign]
  · intro hover
    have hn : 0 < n := (Nat.mul_pos overflowLimit_pos hden).trans_le hover
    rw [isInf, magBits_packSign neg hlt, signBit_packSign neg hlt, roundMag_of_overflow hden hover]
    simp [withSign_lt_zero_iff hn]
  · intro hfin
    obtain ⟨hinf, hnear⟩ := roundMag_of_finite hden hfin
    rw [isFinite_iff, magBits_packSign neg hlt]
    exact ⟨hinf, fun z _ => hnear.signed neg hden hlt z⟩

/-! ## The four operations (R12) -/

/-- An exact sum of zero, whose sign the model gives by a rule of its own, is rounded like any other. -/
theorem addFinite_rounded (x y : F64) : Rounded (addFinite x y) (intUnits x + intUnits y) 1 := by
  unfold addFinite
  dsimp only
  split
  · rename_i hzero
    have hround := roundUnits_rounded (signBit x && signBit y) 0 Nat.one_pos
    have hmag : roundMag 0 1 = 0 := by decide
    rwa [roundUnits, hmag, withSign_zero, ← hzero] at hround
  · have hround := roundUnits_rounded (decide (intUnits x + intUnits y < 0)) (intUnits x + intUnits y).natAbs
      Nat.one_pos
    rwa [withSign_decide_natAbs] at hround

theorem addNumbers_of_isFinite {x y : F64} (hx : isFinite x = true) (hy : isFinite y = true) :
    addNumbers x y = addFinite x y := by
  simp [addNumbers, isInf_of_isFinite hx, isInf_of_isFinite hy]

section
variable {x y : F64} (hx : isFinite x = true) (hy : isFinite y = true)
include hx hy

theorem fadd_rounded : Rounded (fadd x y) (intUnits x + intUnits y) 1 := by
  have hsum : fadd x y = addFinite x y := by
    simp [fadd, isNaN_of_isFinite hx, isNaN_of_isFinite hy, addNumbers_of_isFinite hx hy]
  rw [hsum]
  exact addFinite_rounded x y

theorem fsub_rounded : Rounded (fsub x y) (intUnits x - intUnits y) 1 := by
  have hy' : isFinite (fneg y) = true := by rw [isFinite_fneg, hy]
  have hdiff : fsub x y = addFinite x (fneg y) := by
    simp [fsub, isNaN_of_isFinite hx, isNaN_of_isFinite hy, addNumbers_of_isFinite hx hy']
  rw [hdiff, Int.sub_eq_add_neg, ← intUnits_fneg]
  exact addFinite_rounded x (fneg y)

theorem fmul_rounded : Rounded (fmul x y) (intUnits x * intUnits y) (2 ^ 1074) := by
  have hprod : fmul x y = roundUnits (signBit x != signBit y) (unitsOf x * unitsOf y) (2 ^ 1074) := by
    simp only [fmul, isNaN_of_isFinite hx, isNaN_of_isFinite hy, isInf_of_isFinite hx, isInf_of_isFinite hy,
      Bool.or_self, Bool.false_eq_true, if_false]
  rw [hprod, intUnits_eq_withSign, intUnits_eq_withSign, withSign_mul_withSign]
  exact roundUnits_rounded _ _ (by positivity)

theorem fdiv_rounded (hy0 : isZero y = false) :
    Rounded (fdiv x y) ((if signBit y then -1 else 1) * intUnits x * 2 ^ 1074) (unitsOf y) := by
  have hquot : fdiv x y = roundUnits (signBit x != signBit y) (unitsOf x * 2 ^ 1074) (unitsOf y) := by
    simp only [fdiv, isNaN_of_isFinite hx, isNaN_of_isFinite hy, isInf_of_isFinite hx, isInf_of_isFinite hy, hy0,
      Bool.or_self, Bool.false_eq_true, if_false]
  have hnum : (if signBit y then -1 else 1) * intUnits x * 2 ^ 1074 =
      withSign (signBit x != signBit y) (unitsOf x * 2 ^ 1074) := by
    have hone : (if signBit y then -1 else 1) = withSign (signBit y) 1 := rfl
    rw [hone, intUnits_eq_withSign, withSign_mul_withSign, Nat.one_mul, bne_comm, ← withSign_mul, Nat.cast_pow,
      Nat.cast_ofNat]
  rw [hquot, hnum]
  exact roundUnits_rounded _ _ (unitsOf_pos hy0)

end

/-- Settles O32, operation by operation. -/
theorem arithmeticRoundsToNearestEven : Obligations.ArithmeticRoundsToNearestEven := by
  unfold Obligations.ArithmeticRoundsToNearestEven
  simp only [roundsTo_iff_rounded]
  exact fun x y hx hy => ⟨fadd_rounded hx hy, fsub_rounded hx hy, fmul_rounded hx hy, fdiv_rounded hx hy⟩

/-- Settles O31: a finite sum is no infinity, so it is the nearest value. -/
theorem sumIsNearest : Obligations.SumIsNearest := by
  unfold Obligations.SumIsNearest
  intro x y z hx hy hsum hz
  have hround := fadd_rounded hx hy
  have hfin : (intUnits x + intUnits y).natAbs < overflowLimit * 1 := by
    by_contra hover
    obtain ⟨hinf, -⟩ := hround.overflow (not_lt.mp hover)
    exact Bool.false_ne_true ((isInf_of_isFinite hsum).symm.trans hinf)
  obtain ⟨hle, -⟩ := (hround.finite hfin).2 z hz
  simpa using hle

end Sys2Proof.Machine
end

section
/-! PROOFS. The correctly rounded square root (spec/00_scope.md R10). -/

namespace Sys2Proof.Machine

/-! ## The integer root and its sticky bit -/

/-- The search keeps the root between what it has found and what it has still to try. -/
theorem isqrtFrom_spec (n b r : Nat) (hlo : r * r ≤ n) (hhi : n < (r + 2 ^ b) * (r + 2 ^ b)) :
    isqrtFrom n b r * isqrtFrom n b r ≤ n ∧ n < (isqrtFrom n b r + 1) * (isqrtFrom n b r + 1) := by
  induction b generalizing r with
  | zero => exact ⟨hlo, hhi⟩
  | succ b ih =>
    rw [isqrtFrom]
    split
    · rename_i hbit
      refine ih (r + 2 ^ b) hbit ?_
      rwa [Nat.add_assoc, ← Nat.two_mul, ← Nat.pow_succ']
    · rename_i hbit
      exact ih r hlo (not_le.mp hbit)

theorem isqrt_eq_sqrt (n : Nat) : isqrt n = n.sqrt := by
  refine Nat.eq_sqrt.mpr (isqrtFrom_spec n (n.log2 / 2 + 1) 0 (Nat.zero_le n) ?_)
  rw [Nat.zero_add, ← pow_add]
  calc n < 2 ^ (n.log2 + 1) := Nat.lt_log2_self
    _ ≤ 2 ^ (n.log2 / 2 + 1 + (n.log2 / 2 + 1)) := Nat.pow_le_pow_right Nat.two_pos (by omega)

/-- Twice the integer root, with the sticky bit of R10's root set where the root is not exact. -/
def stickyRoot (n : Nat) : Nat := 2 * isqrt n + if isqrt n * isqrt n = n then 0 else 1

/-- Against an even number the sticky root compares as twice the exact root does. -/
theorem stickyRoot_le_two_mul {n w : Nat} (h : stickyRoot n ≤ 2 * w) : n ≤ w * w := by
  unfold stickyRoot at h
  rw [isqrt_eq_sqrt] at h
  split at h
  · rename_i hexact
    rw [← hexact]
    exact Nat.mul_self_le_mul_self (by omega)
  · exact (Nat.sqrt_lt.mp (by omega : n.sqrt < w)).le

theorem two_mul_le_stickyRoot {n w : Nat} (h : 2 * w ≤ stickyRoot n) : w * w ≤ n := by
  unfold stickyRoot at h
  rw [isqrt_eq_sqrt] at h
  refine Nat.le_sqrt.mp ?_
  split at h <;> omega

theorem le_stickyRoot {n w : Nat} (h : w * w ≤ n) : 2 * w ≤ stickyRoot n := by
  have hroot := Nat.le_sqrt.mpr h
  rw [stickyRoot, isqrt_eq_sqrt]
  omega

theorem stickyRoot_lt {n w : Nat} (h : n < w * w) : stickyRoot n < 2 * w := by
  have hroot := Nat.sqrt_lt.mpr h
  rw [stickyRoot, isqrt_eq_sqrt]
  split <;> omega

/-! ## Rounding the sticky root -/

section
variable {n g r m : Nat}

/-- The power of two at the start of an exponent step. -/
theorem magUnits_step (k : Nat) : magUnits ((k + 1) * 2 ^ 52) = 2 ^ 52 * 2 ^ k := by
  rw [Nat.succ_mul]
  exact magUnits_scaled (.inr le_rfl) (by omega)

/-- The rounded root lies above `2^(53 + g)`: its 61 or more bits above `2^g` leave its last place far above it. -/
theorem step_lt_of_nearest_stickyRoot (hn : 2 ^ 120 ≤ n) (h : NearestEven (stickyRoot n * 2 ^ g) 2 r) :
    (g + 2) * 2 ^ 52 < r := by
  by_contra hle
  have hroot : 2 * 2 ^ 60 * 2 ^ g ≤ stickyRoot n * 2 ^ g := Nat.mul_le_mul_right _ (le_stickyRoot (by omega))
  have hmid := h.above ((g + 3) * 2 ^ 52) (by omega)
  have hval : magUnits r ≤ magUnits ((g + 2) * 2 ^ 52) := magUnits_strictMono.monotone (by omega)
  rw [magUnits_step, pow_succ] at hval
  rw [magUnits_step, pow_add 2 g 2] at hmid
  have hpos := Nat.two_pow_pos g
  omega

/-- Two values of at least `2^(53 + g)` have a midpoint on a whole number of `2^g`. -/
theorem exists_midpoint {a b : Nat} (ha : (g + 2) * 2 ^ 52 ≤ a) (hb : (g + 2) * 2 ^ 52 ≤ b) :
    ∃ w, magUnits a + magUnits b = 2 * (w * 2 ^ g) := by
  have hdvd : ∀ c, (g + 2) * 2 ^ 52 ≤ c → 2 ^ (g + 1) ∣ magUnits c := fun c hc => by
    apply dvd_magUnits
    rw [pow_add, ← magUnits_step]
    exact magUnits_strictMono.monotone hc
  obtain ⟨w, hw⟩ := Nat.dvd_add (hdvd a ha) (hdvd b hb)
  exact ⟨w, by rw [hw, pow_succ]; ring⟩

/-- The exact root is not past the midpoint towards a larger value. -/
theorem root_le_midpoint (hn : 2 ^ 120 ≤ n) (h : NearestEven (stickyRoot n * 2 ^ g) 2 r) (hm : r < m) :
    4 * (n * (2 ^ g * 2 ^ g)) ≤ (magUnits r + magUnits m) ^ 2 := by
  have hr := step_lt_of_nearest_stickyRoot hn h
  obtain ⟨w, hw⟩ := exists_midpoint hr.le (hr.trans hm).le
  have hmid := h.above m hm
  rw [hw] at hmid ⊢
  have hroot : n ≤ w * w := stickyRoot_le_two_mul <| Nat.le_of_mul_le_mul_right
    (by rw [Nat.mul_assoc 2]; omega : stickyRoot n * 2 ^ g ≤ 2 * w * 2 ^ g) (Nat.two_pow_pos g)
  calc 4 * (n * (2 ^ g * 2 ^ g)) ≤ 4 * (w * w * (2 ^ g * 2 ^ g)) := by gcongr
    _ = (2 * (w * 2 ^ g)) ^ 2 := by ring

/-- The exact root is not past the midpoint towards a smaller value: one below `2^(53 + g)` is replaced by
that value. -/
theorem midpoint_le_root (hn : 2 ^ 120 ≤ n) (h : NearestEven (stickyRoot n * 2 ^ g) 2 r) (hm : m < r) :
    (magUnits r + magUnits m) ^ 2 ≤ 4 * (n * (2 ^ g * 2 ^ g)) := by
  have hr := step_lt_of_nearest_stickyRoot hn h
  obtain ⟨w, hw⟩ := exists_midpoint hr.le (le_max_right m ((g + 2) * 2 ^ 52))
  have hmid := h.below (max m ((g + 2) * 2 ^ 52)) (max_lt hm hr)
  rw [hw] at hmid
  have hroot : w * w ≤ n := two_mul_le_stickyRoot <| Nat.le_of_mul_le_mul_right
    (by rw [Nat.mul_assoc 2]; omega : 2 * w * 2 ^ g ≤ stickyRoot n * 2 ^ g) (Nat.two_pow_pos g)
  calc (magUnits r + magUnits m) ^ 2 ≤ (2 * (w * 2 ^ g)) ^ 2 := by
        rw [← hw]
        gcongr
        exact magUnits_strictMono.monotone (le_max_left _ _)
    _ = 4 * (w * w * (2 ^ g * 2 ^ g)) := by ring
    _ ≤ 4 * (n * (2 ^ g * 2 ^ g)) := by gcongr

end

/-! ## The operation -/

/-- A positive finite value is its fraction scaled by its exponent, which is 1 for a subnormal one too. -/
theorem unitsOf_eq_fraction (x : F64) :
    unitsOf x = (if magBits x / 2 ^ 52 = 0 then magBits x else 2 ^ 52 + magBits x % 2 ^ 52) *
      2 ^ (max (magBits x / 2 ^ 52) 1 - 1) := by
  rw [unitsOf_eq_magUnits, magUnits]
  split
  · rename_i hsub
    rw [hsub, Nat.mod_eq_of_lt (by omega)]
    simp
  · rw [max_eq_left (by omega)]

theorem scaled_fraction_bounds {f : Nat} (hf : 1 ≤ f ∧ f < 2 ^ 53) (t : Nat) :
    2 ^ 120 ≤ f * 2 ^ (120 + t % 2) ∧ f * 2 ^ (120 + t % 2) < 2 ^ 174 := by
  rcases Nat.mod_two_eq_zero_or_one t with hpar | hpar <;> rw [hpar] <;> omega

/-- The model's root: `x`, in the units of its square, is `n` scaled by an even power of two, and the sticky root of `n`
is what is rounded. -/
theorem sqrtPositive_eq {x : F64} (hfin : isFinite x = true) (hpos : isZero x = false) :
    ∃ n g, sqrtPositive x = roundUnits false (stickyRoot n * 2 ^ g) 2 ∧
      unitsOf x * 2 ^ 1074 = n * (2 ^ g * 2 ^ g) ∧ 2 ^ 120 ≤ n ∧ n < 2 ^ 174 ∧ g ≤ 1500 := by
  have hlt := isFinite_iff.mp hfin
  have hne : magBits x ≠ 0 := by simpa [isZero] using hpos
  have hunits := unitsOf_eq_fraction x
  unfold infBits at hlt
  generalize hf : (if magBits x / 2 ^ 52 = 0 then magBits x else 2 ^ 52 + magBits x % 2 ^ 52) = f at *
  generalize he : max (magBits x / 2 ^ 52) 1 = e at *
  have hbits : 1 ≤ f ∧ f < 2 ^ 53 := by split at hf <;> omega
  obtain ⟨hlow, hhigh⟩ := scaled_fraction_bounds hbits (e + 1073)
  refine ⟨f * 2 ^ (120 + (e + 1073) % 2), (e + 1073) / 2 - 60, ?_, ?_, hlow, hhigh, by omega⟩
  · rw [← he, ← hf]
    rfl
  · rw [hunits, Nat.mul_assoc, Nat.mul_assoc, ← pow_add, ← pow_add, ← pow_add]
    congr 2
    omega

/-- The sticky root lies far below the overflow limit. -/
theorem stickyRoot_lt_overflow {n g : Nat} (hn : n < 2 ^ 174) (hg : g ≤ 1500) :
    stickyRoot n * 2 ^ g < overflowLimit * 2 := by
  have hroot : stickyRoot n < 2 ^ 88 := stickyRoot_lt (w := 2 ^ 87) (by omega)
  calc stickyRoot n * 2 ^ g < 2 ^ 88 * 2 ^ g := Nat.mul_lt_mul_of_pos_right hroot (Nat.two_pow_pos g)
    _ ≤ 2 ^ 88 * 2 ^ 1500 := Nat.mul_le_mul_left _ (Nat.pow_le_pow_right Nat.two_pos hg)
    _ ≤ overflowLimit * 2 := by decide +kernel

theorem fsqrt_of_positive {x : F64} (hfin : isFinite x = true) (hpos : isZero x = false) (hsign : signBit x = false) :
    fsqrt x = sqrtPositive x := by
  simp [fsqrt, isNaN_of_isFinite hfin, hpos, hsign, isInf_of_isFinite hfin]

/-- Settles O33: the sticky root, rounded to nearest, has its midpoints on the side the exact root has them. -/
theorem squareRootIsNearest : Obligations.SquareRootIsNearest := by
  unfold Obligations.SquareRootIsNearest
  intro x hfin hpos hsign
  obtain ⟨n, g, hroot, hsquare, hlo, hhi, hg⟩ := sqrtPositive_eq hfin hpos
  have hlt := roundMag_lt (stickyRoot n * 2 ^ g) 2
  obtain ⟨hinf, hnear⟩ := roundMag_of_finite Nat.two_pos (stickyRoot_lt_overflow hhi hg)
  rw [fsqrt_of_positive hfin hpos hsign, hroot, hsquare]
  simp only [roundUnits, isFinite_iff, unitsOf_eq_magUnits, magBits_packSign false hlt, signBit_packSign false hlt]
  exact ⟨hinf, trivial, fun z _ _ => ⟨fun hz => root_le_midpoint hlo hnear (magUnits_strictMono.lt_iff_lt.mp hz),
    fun hz => midpoint_le_root hlo hnear (magUnits_strictMono.lt_iff_lt.mp hz)⟩⟩

end Sys2Proof.Machine
end

section
/-! PROOFS. What a command can do to the registers and the unit banks, said once for all of them (spec/60_exceptions.md
R456, R460, spec/40_control.md R202): it takes a fault, or it is one of five control commands, or it completes with at
most one unit written. -/

namespace Sys2Proof.Machine

/-! ## Unit writes -/

/-- The write of a command to the unit banks: at most one unit, with its new contents. -/
inductive UnitWrite where
  | nothing
  | dl (j : Nat) (l : DelayLine)
  | hb (j : Nat) (h : Halfband)
  | ch (j : Nat) (c : Chain)
  | fir (j : Nat) (f : Fir)
  | iir (j : Nat) (g : Iir)
  | gz (j : Nat) (g : Goertzel)
  | nco (j : Nat) (o : Nco)

/-- The state after a unit write. -/
def UnitWrite.apply (s : State) : UnitWrite → State
  | .nothing => s
  | .dl j l => s.setDl j l
  | .hb j h => s.setHb j h
  | .ch j c => s.setCh j c
  | .fir j f => s.setFir j f
  | .iir j g => s.setIir j g
  | .gz j g => s.setGz j g
  | .nco j o => s.setNco j o

/-- `e` is `s` after the unit write `w`, in everything but DMEM and LAST_COUNT. -/
structure WritesOnly (w : UnitWrite) (s e : State) : Prop where
  cp : e.cp = s.cp
  retired : e.retired = s.retired
  control : SameControl s e
  units : SameUnits (w.apply s) e

theorem SameUnits.rfl {s : State} : SameUnits s s := by constructor <;> rfl

theorem WritesOnly.apply (w : UnitWrite) (s : State) : WritesOnly w s (w.apply s) := by
  cases w <;> exact ⟨rfl, rfl, by constructor <;> rfl, SameUnits.rfl⟩

theorem WritesOnly.setDmem {w : UnitWrite} {s e : State} (h : WritesOnly w s e) (m : Memory) :
    WritesOnly w s (e.setDmem m) :=
  ⟨h.cp, h.retired, { h.control with }, { h.units with }⟩

theorem WritesOnly.setCount {w : UnitWrite} {s e : State} (h : WritesOnly w s e) (q : Nat) :
    WritesOnly w s (e.setCount q) :=
  ⟨h.cp, h.retired, { h.control with }, { h.units with }⟩

theorem WritesOnly.completed {w : UnitWrite} {s e : State} (h : WritesOnly w s e) : Completed s (complete e) :=
  complete_completed h.cp h.retired h.control

/-- What each command may write to the unit banks, with what its checks have established by then. -/
inductive UnitWriteOf (s : State) : Instr → UnitWrite → Prop
  | nothing (i : Instr) : UnitWriteOf s i .nothing
  | dlCfg {u : Nib} {n m : Word} (hlo : 1 ≤ n.toNat) (hhi : n.toNat ≤ Config.dlMaxSize) (hm : m.toNat < n.toNat) :
    UnitWriteOf s (.dlCfg u n m) (.dl u.toNat ⟨true, m.toNat, 0, List.replicate n.toNat Cpx.zero⟩)
  | dlPush {u : Nib} {a n : Word} (hcfg : (s.dlAt u.toNat).cfg = true) (xs : List Cpx) :
    UnitWriteOf s (.dlPush u a n) (.dl u.toNat (xs.foldl newSample (s.dlAt u.toNat)))
  | hbCfg {u mode : Nib} {a n m p : Word} {k0 : F64}
    (hn : mode = 1#4 → n.toNat % 2 = 1 ∧ 3 ≤ n.toNat ∧ n.toNat ≤ Config.hbMaxTaps) :
    UnitWriteOf s (.hbCfg u mode a n m p k0) (.hb u.toNat (configuredHalfband s.dmem mode a n m p k0))
  | hbRun {u : Nib} {a d n : Word} (hcfg : (s.hbAt u.toNat).cfg = true) (xs : List Cpx) :
    UnitWriteOf s (.hbRun u a d n) (.hb u.toNat ((s.hbAt u.toNat).apply xs).1)
  | chBuild {u : Nib} {d n m p : Word} : UnitWriteOf s (.chBuild u d n m p) (.ch u.toNat (buildChain n m p))
  | chProc {u : Nib} {a d n : Word} (xs : List Cpx) :
    UnitWriteOf s (.chProc u a d n)
      (.ch u.toNat { s.chAt u.toNat with stages := (runStages (s.chAt u.toNat).stages xs).1 })
  | firCfg {u mode : Nib} {a n m : Word} (hmode : mode = 0#4 ∨ mode = 1#4) (hlo : 1 ≤ n.toNat)
    (hhi : n.toNat ≤ Config.firMaxTaps) (htd : mode = 0#4 → m.toNat < Config.dlUnits)
    (hfd : mode = 1#4 → 1 ≤ m.toNat ∧ m.toNat ≤ Config.firMaxBlock ∧ n.toNat ≤ m.toNat + 1) :
    UnitWriteOf s (.firCfg u mode a n m)
      (.fir u.toNat (configuredFir mode (readReals s.dmem a.toNat n.toNat) m.toNat))
  | firRunTd {u : Nib} {a d n : Word} (hmode : (s.firAt u.toNat).mode = .td)
    (hcfg : (s.dlAt (s.firAt u.toNat).dl).cfg = true) (xs : List Cpx) :
    UnitWriteOf s (.firRun u a d n)
      (.dl (s.firAt u.toNat).dl (tdRun (s.firAt u.toNat).taps (s.dlAt (s.firAt u.toNat).dl) xs).1)
  | firRunFd {u : Nib} {a d n : Word} (hmode : (s.firAt u.toNat).mode = .fd)
    (hcfg : (s.firAt u.toNat).cfg = true) (xs : List Cpx) :
    UnitWriteOf s (.firRun u a d n)
      (.fir u.toNat
        { s.firAt u.toNat with xtail := fdTail (s.firAt u.toNat).taps (s.firAt u.toNat).xtail xs })
  | iirCfg {u mode : Nib} {a n : Word} (hmode : mode = 0#4 ∨ mode = 1#4)
    (hdirect : mode = 0#4 → 1 ≤ n.toNat ∧ n.toNat ≤ Config.iirMaxOrder)
    (hcascade : mode = 1#4 → 1 ≤ n.toNat ∧ n.toNat ≤ Config.iirMaxSections) :
    UnitWriteOf s (.iirCfg u mode a n)
      (.iir u.toNat (configuredIir mode n.toNat (readReals s.dmem a.toNat (iirCoeffCount mode n.toNat))))
  | iirRun {u : Nib} {a d n : Word} (hcfg : (s.iirAt u.toNat).cfg = true) (xs : List Cpx) :
    UnitWriteOf s (.iirRun u a d n) (.iir u.toNat (iirRun (s.iirAt u.toNat) xs).1)
  | iirClr {u : Nib} (hcfg : (s.iirAt u.toNat).cfg = true) :
    UnitWriteOf s (.iirClr u) (.iir u.toNat (clearHistories (s.iirAt u.toNat)))
  | gzCfg {u mode : Nib} {n m p : Word} {k0 k1 k2 : F64} (hn : 1 ≤ n.toNat) :
    UnitWriteOf s (.gzCfg u mode n m p k0 k1 k2) (.gz u.toNat (configuredGoertzel mode n m p k0 k1 k2))
  | gzRun {u : Nib} {a d n : Word} (hcfg : (s.gzAt u.toNat).cfg = true) (xs : List Cpx) :
    UnitWriteOf s (.gzRun u a d n) (.gz u.toNat (gzRun (s.gzAt u.toNat) xs).1)
  | ncoCfg {u : Nib} {k0 k1 k2 : F64} (hfs : isFinite k1 = true ∧ flt fZero k1 = true) :
    UnitWriteOf s (.ncoCfg u k0 k1 k2) (.nco u.toNat ⟨true, k1, incOf k0 k1, fadd k2 fZero⟩)
  | ncoFreq {u : Nib} {k0 : F64} (hcfg : (s.ncoAt u.toNat).cfg = true) :
    UnitWriteOf s (.ncoFreq u k0) (.nco u.toNat { s.ncoAt u.toNat with inc := incOf k0 (s.ncoAt u.toNat).fs })
  | ncoMix {u : Nib} {a d n : Word} (hcfg : (s.ncoAt u.toNat).cfg = true) (phase : F64) :
    UnitWriteOf s (.ncoMix u a d n) (.nco u.toNat { s.ncoAt u.toNat with phase := phase })

/-! ## The outcomes of a command -/

/-- The five commands that write a register beside `CP` and `RETIRED`, or `CP` otherwise than past the descriptor. -/
inductive ControlDone (s : State) : Instr → State → Prop
  | halt : ControlDone s .halt (haltFlags (complete s))
  | jump (a : Word) : ControlDone s (.jump a) (retire { s with cp := a })
  | lset (n : Word) : ControlDone s (.lset n) (complete { s with lc := n })
  | loop (a : Word) : ControlDone s (.loop a) (retire (loopEffect a s))
  | signal : ControlDone s .signal (complete (signalFlag s))

/-- LOOP changes `LC` and `CP` only (R205). -/
theorem loopEffect_eq (a : Word) (s : State) :
    loopEffect a s = { s with lc := (loopEffect a s).lc, cp := (loopEffect a s).cp } := by
  unfold loopEffect
  split
  · rfl
  · split <;> rfl

theorem ControlDone.sameUnits {s t : State} {i : Instr} (h : ControlDone s i t) : SameUnits s t := by
  cases h with
  | loop a =>
    rw [loopEffect_eq]
    constructor <;> rfl
  | _ => constructor <;> rfl

/-- Everything a command can do to the registers and the unit banks. -/
inductive CommandOutcome (i : Instr) (s t : State) : Prop
  | fault (c : Cause) (v : Word) (hcause : c ≠ .none) (ht : t = takeFault c v s)
  | control (hdone : ControlDone s i t)
  | done (w : UnitWrite) (hw : UnitWriteOf s i w) (hcompleted : Completed s t) (hunits : SameUnits (w.apply s) t)
    (hcount : reportsCount i = false → t.lastCount = s.lastCount)

/-- Every check of the list faults with a cause (R451). -/
def AllRaise (cs : List Check) : Prop := ∀ c ∈ cs, c.cause ≠ .none

@[simp] theorem allRaise_nil : AllRaise [] := by simp [AllRaise]

@[simp] theorem allRaise_cons (c : Check) (cs : List Check) : AllRaise (c :: cs) ↔ c.cause ≠ .none ∧ AllRaise cs := by
  simp [AllRaise]

@[simp] theorem allRaise_append (cs ds : List Check) : AllRaise (cs ++ ds) ↔ AllRaise cs ∧ AllRaise ds := by
  simp [AllRaise, or_imp, forall_and]

@[simp] theorem unitCheck_cause (u : Nib) (count : Nat) : (unitCheck u count).cause = .badUnit := rfl
@[simp] theorem cfgCheck_cause (cfg : Bool) (k : UnitKind) (j : Nat) : (cfgCheck cfg k j).cause = .unconfigured := rfl
@[simp] theorem fieldCheck_cause (ok : Bool) (word : Nat) : (fieldCheck ok word).cause = .badField := rfl
@[simp] theorem alignCheck_cause (r : Region) : (alignCheck r).cause = .operandMisaligned := rfl
@[simp] theorem rangeCheck_cause (r : Region) : (rangeCheck r).cause = .operandRange := rfl

@[simp] theorem allRaise_regionChecks (rs : List Region) : AllRaise (regionChecks rs) := by
  simp [AllRaise, regionChecks, or_imp, forall_and]

@[simp] theorem allRaise_dlChecks (u : Nib) (s : State) : AllRaise (dlChecks u s) := by simp [dlChecks]
@[simp] theorem allRaise_iirChecks (u : Nib) (s : State) : AllRaise (iirChecks u s) := by simp [iirChecks]
@[simp] theorem allRaise_ncoChecks (u : Nib) (s : State) : AllRaise (ncoChecks u s) := by simp [ncoChecks]
@[simp] theorem allRaise_firRunChecks (u n : Nat) (unit : Nib) (s : State) : AllRaise (firRunChecks u n unit s) := by
  simp [firRunChecks]
@[simp] theorem allRaise_genChecks (mode : Nib) (d n : Word) (k0 : F64) : AllRaise (genChecks mode d n k0) := by
  simp [genChecks]
@[simp] theorem allRaise_genChecks2 (mode : Nib) (d n : Word) (k0 k1 : F64) :
    AllRaise (genChecks2 mode d n k0 k1) := by
  simp [genChecks2]

@[simp] theorem unitCheck_ok (u : Nib) (count : Nat) : (unitCheck u count).ok = decide (u.toNat < count) := rfl
@[simp] theorem cfgCheck_ok (cfg : Bool) (k : UnitKind) (j : Nat) : (cfgCheck cfg k j).ok = cfg := rfl
@[simp] theorem fieldCheck_ok (ok : Bool) (word : Nat) : (fieldCheck ok word).ok = ok := rfl

/-- The outcome of a command of the common form, from what its effect writes. -/
theorem CommandOutcome.of_command {i : Instr} {s t e : State} {cs : List Check} {w : UnitWrite}
    (h : command s cs e = .next t) (hraise : AllRaise cs) (he : WritesOnly w s e)
    (hw : (∀ c ∈ cs, c.ok = true) → UnitWriteOf s i w)
    (hcount : reportsCount i = false → e.lastCount = s.lastCount) : CommandOutcome i s t := by
  rcases checked_cases s (complete e) cs with ⟨hok, hdone⟩ | ⟨k, hk, -, -, hfault⟩
  · obtain rfl : complete e = t := by
      rw [command, hdone] at h
      exact Host.Outcome.next.inj h
    exact .done w (hw hok) he.completed { he.units with } hcount
  · rw [command, hfault] at h
    exact .fault k.cause k.info (hraise k hk) (Host.Outcome.next.inj h).symm

/-- A command whose effect is new DMEM contents. -/
theorem CommandOutcome.of_setDmem {i : Instr} {s t : State} {cs : List Check} {m : Memory}
    (h : command s cs (s.setDmem m) = .next t) (hraise : AllRaise cs) : CommandOutcome i s t :=
  .of_command h hraise ((WritesOnly.apply .nothing s).setDmem m) (fun _ => .nothing i) fun _ => rfl

/-- A command whose effect is new DMEM contents and a count. -/
theorem CommandOutcome.of_setCount {i : Instr} {s t : State} {cs : List Check} {m : Memory} {q : Nat}
    (h : command s cs ((s.setDmem m).setCount q) = .next t) (hraise : AllRaise cs) (hi : reportsCount i = true) :
    CommandOutcome i s t :=
  .of_command h hraise (((WritesOnly.apply .nothing s).setDmem m).setCount q) (fun _ => .nothing i)
    fun hno => absurd hi (Bool.eq_false_iff.mp hno)

/-- A control command has no check of its own. -/
theorem CommandOutcome.of_control {i : Instr} {s t e : State} (h : Host.Outcome.next e = (.next t : Result))
    (he : ControlDone s i e) : CommandOutcome i s t :=
  .control (Host.Outcome.next.inj h ▸ he)

theorem nib_zero_or_one {mode : Nib} (h : mode.toNat ≤ 1) : mode = 0#4 ∨ mode = 1#4 := by bv_omega

/-- Past its checks FIR.RUN has a configured engine and, in the time domain, a configured delay line (R351). -/
theorem cfg_of_firRunChecks_ok {u n : Nat} {unit : Nib} {s : State} {rest : List Check}
    (hok : ∀ c ∈ firRunChecks u n unit s ++ rest, c.ok = true) :
    (s.firAt u).cfg = true ∧ ((s.firAt u).mode = .td → (s.dlAt (s.firAt u).dl).cfg = true) := by
  simp only [firRunChecks, List.forall_mem_append, List.forall_mem_cons, cfgCheck_ok, Bool.or_eq_true, beq_iff_eq]
    at hok
  obtain ⟨⟨-, hfir, hline, -⟩, -⟩ := hok
  exact ⟨hfir, fun htd => hline.resolve_left (by simp [htd])⟩

/-- The outcome of every command. -/
theorem exec_outcome {i : Instr} {s t : State} (h : exec i s = .next t) : CommandOutcome i s t := by
  cases i with
  | nop => exact .of_command (cs := []) (e := s) h (by simp) (.apply .nothing s) (fun _ => .nothing _) fun _ => rfl
  | halt => exact .of_control h .halt
  | jump a => exact .of_control h (.jump a)
  | lset n => exact .of_control h (.lset n)
  | loop a => exact .of_control h (.loop a)
  | signal => exact .of_control h .signal
  | vadd a b d n => exact .of_setDmem h (by simp)
  | vsub a b d n => exact .of_setDmem h (by simp)
  | vmul a b d n => exact .of_setDmem h (by simp)
  | vdiv a b d n => exact .of_setDmem h (by simp)
  | vscale a d n k0 => exact .of_setDmem h (by simp)
  | vconj a d n => exact .of_setDmem h (by simp)
  | vmag a d n => exact .of_setDmem h (by simp)
  | vsqmag a d n => exact .of_setDmem h (by simp)
  | vpolar a d n => exact .of_setDmem h (by simp)
  | vrect a d n => exact .of_setDmem h (by simp)
  | vclear d n => exact .of_setDmem h (by simp)
  | vcopy a d n => exact .of_setDmem h (by simp)
  | vdecim a d n m => exact .of_setCount h (by simp) rfl
  | vnormsqr a d n => exact .of_setDmem h (by simp)
  | vnorm a d n => exact .of_setDmem h (by simp)
  | vpeak a d n => exact .of_setDmem h (by simp)
  | vpeakpwr a d n => exact .of_setDmem h (by simp)
  | dlCfg u n m =>
    refine .of_command h (by simp) (.apply (.dl _ _) s) (fun hok => ?_) fun _ => rfl
    obtain ⟨-, ⟨hlo, hhi⟩, hm⟩ := by simpa using hok
    exact .dlCfg hlo hhi hm
  | dlPush u a n =>
    refine .of_command h (by simp) (.apply (.dl _ _) s) (fun hok => ?_) fun _ => rfl
    exact .dlPush (hok (cfgCheck _ .dl u.toNat) (by simp [dlChecks])) _
  | dlTap u d m => exact .of_setDmem h (by simp)
  | dlMac u a d n => exact .of_setDmem h (by simp)
  | hbCfg u mode a n m p k0 =>
    refine .of_command h (by simp; split <;> simp) (.apply (.hb _ _) s) (fun hok => ?_) fun _ => rfl
    have hn := hok (fieldCheck (decide (mode = 1#4 → n.toNat % 2 = 1 ∧ 3 ≤ n.toNat ∧ n.toNat ≤ Config.hbMaxTaps)) 4)
      (by simp)
    exact .hbCfg (of_decide_eq_true hn)
  | hbRun u a d n =>
    refine .of_command h (by simp) (((WritesOnly.apply (.hb _ _) s).setDmem _).setCount _) (fun hok => ?_) nofun
    exact .hbRun (hok (cfgCheck _ .hb u.toNat) (by simp)) _
  | chBuild u d n m p =>
    exact .of_command h (by simp) (((WritesOnly.apply (.ch _ _) s).setDmem _).setCount _) (fun _ => .chBuild) nofun
  | chProc u a d n =>
    exact .of_command h (by simp) (((WritesOnly.apply (.ch _ _) s).setDmem _).setCount _) (fun _ => .chProc _) nofun
  | chInfo u d => exact .of_setCount h (by simp) rfl
  | firCfg u mode a n m =>
    refine .of_command h (by simp) (.apply (.fir _ _) s) (fun hok => ?_) fun _ => rfl
    simp only [List.forall_mem_append, List.forall_mem_cons, fieldCheck_ok, tapCountOk, decide_eq_true_eq] at hok
    obtain ⟨⟨-, hmode, ⟨hlo, hhi⟩, htd, hfd, -⟩, -⟩ := hok
    exact .firCfg (nib_zero_or_one hmode) hlo hhi htd hfd
  | firRun u a d n =>
    simp only [exec, execFirRun] at h
    split at h
    · rename_i hmode
      refine .of_command h (by simp) ((WritesOnly.apply (.dl _ _) s).setDmem _) (fun hok => ?_) fun _ => rfl
      exact .firRunTd hmode ((cfg_of_firRunChecks_ok hok).2 hmode) _
    · rename_i hmode
      refine .of_command h (by simp) ((WritesOnly.apply (.fir _ _) s).setDmem _) (fun hok => ?_) fun _ => rfl
      exact .firRunFd hmode (cfg_of_firRunChecks_ok hok).1 _
  | firGenlp mode d n k0 => exact .of_setDmem h (by simp)
  | firGenhp mode d n k0 => exact .of_setDmem h (by simp)
  | firGenbs mode d n k0 k1 => exact .of_setDmem h (by simp)
  | firGenbp mode d n k0 k1 => exact .of_setDmem h (by simp)
  | firInvert a d n => exact .of_setDmem h (by simp)
  | firReverse a d n => exact .of_setDmem h (by simp)
  | iirCfg u mode a n =>
    refine .of_command h (by simp) (.apply (.iir _ _) s) (fun hok => ?_) fun _ => rfl
    simp only [List.forall_mem_append, List.forall_mem_cons, fieldCheck_ok, decide_eq_true_eq] at hok
    obtain ⟨⟨-, hmode, hdirect, hcascade, -⟩, -⟩ := hok
    exact .iirCfg (nib_zero_or_one hmode) hdirect hcascade
  | iirRun u a d n =>
    refine .of_command h (by simp) ((WritesOnly.apply (.iir _ _) s).setDmem _) (fun hok => ?_) fun _ => rfl
    exact .iirRun (hok (cfgCheck _ .iir u.toNat) (by simp [iirChecks])) _
  | iirClr u =>
    refine .of_command h (by simp) (.apply (.iir _ _) s) (fun hok => ?_) fun _ => rfl
    exact .iirClr (hok (cfgCheck _ .iir u.toNat) (by simp [iirChecks]))
  | gzCfg u mode n m p k0 k1 k2 =>
    refine .of_command h (by simp) (.apply (.gz _ _) s) (fun hok => ?_) fun _ => rfl
    have hn := hok (fieldCheck (n.toNat != 0) 4) (by simp)
    exact .gzCfg (Nat.one_le_iff_ne_zero.mpr (bne_iff_ne.mp hn))
  | gzRun u a d n =>
    refine .of_command h (by simp) (((WritesOnly.apply (.gz _ _) s).setDmem _).setCount _) (fun hok => ?_) nofun
    exact .gzRun (hok (cfgCheck _ .gz u.toNat) (by simp)) _
  | ncoCfg u k0 k1 k2 =>
    refine .of_command h (by simp) (.apply (.nco _ _) s) (fun hok => ?_) fun _ => rfl
    have hfs := hok (fieldCheck (isFinite k1 && flt fZero k1) 10) (by simp)
    exact .ncoCfg (by simpa using hfs)
  | ncoFreq u k0 =>
    refine .of_command h (by simp) (.apply (.nco _ _) s) (fun hok => ?_) fun _ => rfl
    exact .ncoFreq (hok (cfgCheck _ .nco u.toNat) (by simp [ncoChecks]))
  | ncoMix u a d n =>
    refine .of_command h (by simp) ((WritesOnly.apply (.nco _ _) s).setDmem _) (fun hok => ?_) fun _ => rfl
    exact .ncoMix (hok (cfgCheck _ .nco u.toNat) (by simp [ncoChecks])) _

end Sys2Proof.Machine
end

section
/-! PROOFS. The operations of the units keep them in the ranges of spec/10_state.md R65-R72. -/

namespace Sys2Proof.Machine

/-! ## Banks -/

section
variable {α : Type} {n : Nat} {v : Vector α n} {x d : α}

/-- Reading another unit than the one written. -/
theorem getD_setIfInBounds_ne {i j : Nat} (h : j ≠ i) : (v.setIfInBounds i x)[j]?.getD d = v[j]?.getD d := by
  rw [Vector.getElem?_setIfInBounds_ne h.symm]

/-- A property of every unit of a bank after a write that has it. -/
theorem forall_getD_setIfInBounds {p : α → Prop} (i : Nat) (hv : ∀ j : Nat, p (v[j]?.getD d)) (hx : p x) (j : Nat) :
    p ((v.setIfInBounds i x)[j]?.getD d) := by
  by_cases h : j = i
  · subst h
    by_cases hj : j < n
    · rw [Vector.getElem?_setIfInBounds_self_of_lt hj]
      exact hx
    · have hout := hv j
      rw [Vector.getElem?_eq_none (by omega)] at hout ⊢
      exact hout
  · rw [getD_setIfInBounds_ne h]
    exact hv j

theorem getD_replicate (n j : Nat) : (Vector.replicate n d)[j]?.getD d = d := by
  rw [Vector.getElem?_replicate]
  split <;> rfl

end

theorem SameUnits.dlAt {s t : State} (h : SameUnits s t) (j : Nat) : t.dlAt j = s.dlAt j := by
  rw [State.dlAt, State.dlAt, h.dl]
theorem SameUnits.hbAt {s t : State} (h : SameUnits s t) (j : Nat) : t.hbAt j = s.hbAt j := by
  rw [State.hbAt, State.hbAt, h.hb]
theorem SameUnits.chAt {s t : State} (h : SameUnits s t) (j : Nat) : t.chAt j = s.chAt j := by
  rw [State.chAt, State.chAt, h.ch]
theorem SameUnits.firAt {s t : State} (h : SameUnits s t) (j : Nat) : t.firAt j = s.firAt j := by
  rw [State.firAt, State.firAt, h.fir]
theorem SameUnits.iirAt {s t : State} (h : SameUnits s t) (j : Nat) : t.iirAt j = s.iirAt j := by
  rw [State.iirAt, State.iirAt, h.iir]
theorem SameUnits.gzAt {s t : State} (h : SameUnits s t) (j : Nat) : t.gzAt j = s.gzAt j := by
  rw [State.gzAt, State.gzAt, h.gz]
theorem SameUnits.ncoAt {s t : State} (h : SameUnits s t) (j : Nat) : t.ncoAt j = s.ncoAt j := by
  rw [State.ncoAt, State.ncoAt, h.nco]

/-! ## Delay lines (R260) -/

theorem DelayLine.ok_of_cfg {l : DelayLine} (h : l.cfg = true) :
    l.Ok ↔ 1 ≤ l.size ∧ l.size ≤ Config.dlMaxSize ∧ l.delay < l.size ∧ l.last < l.size := by
  simp [DelayLine.Ok, h]

@[simp] theorem newSample_cfg (l : DelayLine) (c : Cpx) : (newSample l c).cfg = l.cfg := rfl

@[simp] theorem newSample_size (l : DelayLine) (c : Cpx) : (newSample l c).size = l.size := by
  simp [newSample, DelayLine.size]

theorem newSample_ok {l : DelayLine} (hcfg : l.cfg = true) (h : l.Ok) (c : Cpx) : (newSample l c).Ok := by
  obtain ⟨hlo, hhi, hdelay, -⟩ := (DelayLine.ok_of_cfg hcfg).mp h
  have hlast : (newSample l c).last < l.size := Nat.mod_lt _ hlo
  rw [DelayLine.ok_of_cfg (by simpa using hcfg), newSample_size]
  exact ⟨hlo, hhi, hdelay, hlast⟩

theorem foldl_newSample_ok {l : DelayLine} (hcfg : l.cfg = true) (h : l.Ok) (xs : List Cpx) :
    (xs.foldl newSample l).Ok := by
  induction xs generalizing l with
  | nil => exact h
  | cons x xs ih => exact ih (by simpa using hcfg) (newSample_ok hcfg h x)

/-- R351: the samples reach the delay line as DL.PUSH brings them there. -/
theorem tdRun_fst (taps : List F64) (l : DelayLine) (xs : List Cpx) : (tdRun taps l xs).1 = xs.foldl newSample l := by
  induction xs generalizing l with
  | nil => rfl
  | cons x xs ih => exact ih (newSample l x)

/-! ## Passes and stages (R282-R286) -/

theorem cicStep_hist (st : PassState) (z : Cpx) : (cicStep st z).1.hist = st.hist := by
  unfold cicStep
  split <;> rfl

theorem cicpass_hist (st : PassState) (xs : List Cpx) : (cicpass st xs).1.hist = st.hist := by
  induction xs generalizing st with
  | nil => rfl
  | cons z zs ih => exact (ih (cicStep st z).1).trans (cicStep_hist st z)

/-- A pass keeps the length of its history, which for a FIR pass is one less than the tap count. -/
theorem runPass_hist_length {form : PassForm} {taps : List F64} {st : PassState} {n : Nat} (hst : st.hist.length = n)
    (hn : form = .fir → n = taps.length - 1) (xs : List Cpx) : (runPass form taps st xs).1.hist.length = n := by
  cases form with
  | cic3 =>
    rw [← hst]
    exact congrArg List.length (cicpass_hist st xs)
  | fir =>
    have htaps := hn rfl
    simp only [runPass, firpass, List.length_take, List.length_drop, List.length_append]
    omega

theorem stageApply_hist_length {form : PassForm} {taps : List F64} {p0 p1 : PassState} {n : Nat}
    (h0 : p0.hist.length = n) (h1 : p1.hist.length = n) (hn : form = .fir → n = taps.length - 1) (decim : Decim)
    (xs : List Cpx) :
    (stageApply form taps decim p0 p1 xs).1.hist.length = n ∧
      (stageApply form taps decim p0 p1 xs).2.1.hist.length = n := by
  cases decim with
  | two => exact ⟨runPass_hist_length h0 hn xs, h1⟩
  | four => exact ⟨runPass_hist_length h0 hn xs, runPass_hist_length h1 hn _⟩

theorem hbTaps_range (d : Fin 14) (hd : d.val ≠ 0) :
    hbTaps d % 2 = 1 ∧ 3 ≤ hbTaps d ∧ hbTaps d ≤ Config.hbMaxTaps := by
  revert d
  decide

@[simp] theorem hbCoeff_length (d : Fin 14) : (hbCoeff d).length = hbTaps d := by simp [hbCoeff]

@[simp] theorem passState_zero_hist_length (n : Nat) : (PassState.zero n).hist.length = n := by
  simp [PassState.zero]

theorem Halfband.ok_of_cic3 {h : Halfband} (hcfg : h.cfg = true) (hform : h.form = .cic3) : h.Ok ↔ h.coeff = [] := by
  simp [Halfband.Ok, hcfg, hform]

theorem Halfband.ok_of_fir {h : Halfband} (hcfg : h.cfg = true) (hform : h.form = .fir) :
    h.Ok ↔ h.coeff.length % 2 = 1 ∧ 3 ≤ h.coeff.length ∧ h.coeff.length ≤ Config.hbMaxTaps ∧
      h.pass0.hist.length = h.coeff.length - 1 ∧ h.pass1.hist.length = h.coeff.length - 1 := by
  simp [Halfband.Ok, hcfg, hform]

theorem freshHalfband_cic3_ok (design : HbDesign) (edge : F64) (decim : Decim) :
    (freshHalfband .cic3 design [] edge decim).Ok :=
  (Halfband.ok_of_cic3 rfl rfl).mpr rfl

theorem freshHalfband_fir_ok (design : HbDesign) {coeff : List F64} (edge : F64) (decim : Decim)
    (h : coeff.length % 2 = 1 ∧ 3 ≤ coeff.length ∧ coeff.length ≤ Config.hbMaxTaps) :
    (freshHalfband .fir design coeff edge decim).Ok :=
  (Halfband.ok_of_fir rfl rfl).mpr
    ⟨h.1, h.2.1, h.2.2, passState_zero_hist_length _, passState_zero_hist_length _⟩

theorem configuredHalfband_ok (mem : Memory) {mode : Nib} (a : Word) {n : Word} (m p : Word) (k0 : F64)
    (hn : mode = 1#4 → n.toNat % 2 = 1 ∧ 3 ≤ n.toNat ∧ n.toNat ≤ Config.hbMaxTaps) :
    (configuredHalfband mem mode a n m p k0).Ok := by
  unfold configuredHalfband
  split
  · dsimp only
    unfold formOf
    split
    · exact freshHalfband_cic3_ok _ _ _
    · rename_i hd
      exact freshHalfband_fir_ok _ _ _ (by simpa using hbTaps_range _ hd)
  · split
    · rename_i hmode
      exact freshHalfband_fir_ok _ _ _ (by simpa using hn hmode)
    · exact freshHalfband_cic3_ok _ _ _

theorem Halfband.apply_ok {h : Halfband} (hcfg : h.cfg = true) (hok : h.Ok) (xs : List Cpx) : (h.apply xs).1.Ok := by
  cases hform : h.form with
  | cic3 => exact (Halfband.ok_of_cic3 (h := (h.apply xs).1) hcfg hform).mpr ((Halfband.ok_of_cic3 hcfg hform).mp hok)
  | fir =>
    obtain ⟨hodd, hlo, hhi, h0, h1⟩ := (Halfband.ok_of_fir hcfg hform).mp hok
    obtain ⟨h0', h1'⟩ := stageApply_hist_length h0 h1 (form := h.form) (fun _ => rfl) h.decim xs
    exact (Halfband.ok_of_fir (h := (h.apply xs).1) hcfg hform).mpr ⟨hodd, hlo, hhi, h0', h1'⟩

/-! ## Chains (R312, R313, R316) -/

/-- The stage has the histories of its design (R67). -/
def Stage.HasHistory (g : Stage) : Prop :=
  g.pass0.hist.length = hbTaps g.design - 1 ∧ g.pass1.hist.length = hbTaps g.design - 1

theorem Chain.ok_iff (c : Chain) : c.Ok ↔ c.stages.length ≤ Config.maxStages ∧ ∀ g ∈ c.stages, g.HasHistory := Iff.rfl

theorem freshStage_hasHistory (d : Fin 14) (rate : F64) : (freshStage d rate).HasHistory := by
  simp [Stage.HasHistory, freshStage]

theorem Stage.apply_hasHistory {g : Stage} (h : g.HasHistory) (xs : List Cpx) : (g.apply xs).1.HasHistory :=
  stageApply_hist_length h.1 h.2 (fun _ => by rw [hbCoeff_length]) g.decim xs

/-- A halving makes at most one stage more, with the histories of its design. -/
theorem appendStage_ok {gs : List Stage} (h : ∀ g ∈ gs, g.HasHistory) (d : Fin 14) (rate : F64) :
    (appendStage d rate gs).length ≤ gs.length + 1 ∧ ∀ g ∈ appendStage d rate gs, g.HasHistory := by
  cases gs with
  | nil => simp [appendStage, freshStage_hasHistory]
  | cons last earlier =>
    obtain ⟨hlast, hearlier⟩ := List.forall_mem_cons.mp h
    simp only [appendStage]
    split
    · exact ⟨Nat.le_succ _, List.forall_mem_cons.mpr ⟨hlast, hearlier⟩⟩
    · exact ⟨le_rfl, List.forall_mem_cons.mpr ⟨freshStage_hasHistory d rate, h⟩⟩

theorem buildLoop_ok (bw target : F64) (fuel : Nat) {b : Built} (h : ∀ g ∈ b.revStages, g.HasHistory) :
    (buildLoop bw target fuel b).revStages.length ≤ b.revStages.length + fuel ∧
      ∀ g ∈ (buildLoop bw target fuel b).revStages, g.HasHistory := by
  induction fuel generalizing b with
  | zero => exact ⟨le_rfl, h⟩
  | succ fuel ih =>
    unfold buildLoop
    split
    · split
      · exact ⟨by simp, h⟩
      · rename_i d _
        obtain ⟨hlen, hhist⟩ := appendStage_ok h d b.rate
        obtain ⟨hlen', hhist'⟩ := ih (b := ⟨appendStage d b.rate b.revStages, fdiv b.rate fTwo, false⟩) hhist
        exact ⟨by dsimp only at hlen'; omega, hhist'⟩
    · exact ⟨by simp, h⟩

theorem buildChain_ok (n m p : Word) : (buildChain n m p).Ok := by
  obtain ⟨hlen, hhist⟩ := buildLoop_ok (ofNatF m.toNat) (buildTarget p) buildFuel
    (b := ⟨[], ofNatF n.toNat, false⟩) (by simp)
  rw [Chain.ok_iff]
  exact ⟨by simpa [buildChain, buildFuel, Config.maxStages] using hlen, by simpa [buildChain] using hhist⟩

theorem runStages_ok {gs : List Stage} (h : ∀ g ∈ gs, g.HasHistory) (xs : List Cpx) :
    (runStages gs xs).1.length = gs.length ∧ ∀ g ∈ (runStages gs xs).1, g.HasHistory := by
  induction gs generalizing xs with
  | nil => exact ⟨rfl, h⟩
  | cons g gs ih =>
    obtain ⟨hg, hgs⟩ := List.forall_mem_cons.mp h
    obtain ⟨hlen, hrest⟩ := ih hgs (g.apply xs).2
    exact ⟨congrArg (· + 1) hlen, List.forall_mem_cons.mpr ⟨Stage.apply_hasHistory hg xs, hrest⟩⟩

theorem runStages_chain_ok {c : Chain} (h : c.Ok) (xs : List Cpx) :
    ({ c with stages := (runStages c.stages xs).1 } : Chain).Ok := by
  obtain ⟨hlen, hhist⟩ := (Chain.ok_iff c).mp h
  obtain ⟨hlen', hhist'⟩ := runStages_ok hhist xs
  exact (Chain.ok_iff _).mpr ⟨hlen'.trans_le hlen, hhist'⟩

/-! ## FIR engines (R350, R352) -/

theorem configuredFir_ok {mode : Nib} {taps : List F64} {m : Nat} (hmode : mode = 0#4 ∨ mode = 1#4)
    (hlo : 1 ≤ taps.length) (hhi : taps.length ≤ Config.firMaxTaps) (htd : mode = 0#4 → m < Config.dlUnits)
    (hfd : mode = 1#4 → 1 ≤ m ∧ m ≤ Config.firMaxBlock ∧ taps.length ≤ m + 1) : (configuredFir mode taps m).Ok := by
  rcases hmode with rfl | rfl
  · simpa [configuredFir, Fir.Ok, Fir.ntaps] using ⟨hlo, hhi, htd rfl⟩
  · simpa [configuredFir, Fir.Ok, Fir.ntaps] using ⟨hlo, hhi, hfd rfl⟩

theorem fdTail_length {taps : List F64} {xtail : List Cpx} (h : xtail.length = taps.length - 1) (xs : List Cpx) :
    (fdTail taps xtail xs).length = taps.length - 1 := by
  simp only [fdTail, List.length_take, List.length_drop, List.length_append]
  omega

theorem fdTail_ok {f : Fir} (hcfg : f.cfg = true) (h : f.Ok) (xs : List Cpx) :
    ({ f with xtail := fdTail f.taps f.xtail xs } : Fir).Ok := by
  rw [Fir.Ok, if_pos hcfg] at h ⊢
  obtain ⟨hlo, hhi, htail, hmode⟩ := h
  exact ⟨hlo, hhi, fdTail_length htail xs, hmode⟩

/-! ## IIR engines (R371-R376) -/

theorem Iir.ok_of_direct {g : Iir} (hcfg : g.cfg = true) (hmode : g.mode = .direct) :
    g.Ok ↔ 1 ≤ g.order ∧ g.order ≤ Config.iirMaxOrder ∧ g.b.length = g.order + 1 ∧ g.re.HasLength g.order ∧
      g.im.HasLength g.order ∧ g.sections = [] := by
  simp [Iir.Ok, hcfg, hmode]

/-- The section has two entries in each history (R71). -/
def Section.HasHistory (g : Section) : Prop := g.re.HasLength 2 ∧ g.im.HasLength 2

theorem Iir.ok_of_cascade {g : Iir} (hcfg : g.cfg = true) (hmode : g.mode = .cascade) :
    g.Ok ↔ 1 ≤ g.nsec ∧ g.nsec ≤ Config.iirMaxSections ∧ g.b = [] ∧ g.a = [] ∧ g.re = Hist.zero 0 ∧
      g.im = Hist.zero 0 ∧ ∀ c ∈ g.sections, c.HasHistory := by
  simp [Iir.Ok, hcfg, hmode, Section.HasHistory]

theorem hist_zero_hasLength (p : Nat) : (Hist.zero p).HasLength p := by simp [Hist.HasLength, Hist.zero]

theorem shiftIn_length {p : Nat} {h : List F64} (hlen : h.length = p) (v : F64) : (shiftIn p v h).length = p := by
  simp [shiftIn, hlen]

/-- The recursion keeps the lengths of its histories. -/
theorem df_hasLength {h : Hist} {a : List F64} (hh : h.HasLength a.length) (b0 : F64) (b : List F64) (v : F64) :
    (df b0 b a h v).1.HasLength a.length :=
  ⟨shiftIn_length hh.1 _, shiftIn_length hh.2 _⟩

theorem cascadeStep_ok {gs : List Section} (h : ∀ g ∈ gs, g.HasHistory) (z : Cpx) :
    (cascadeStep gs z).1.length = gs.length ∧ ∀ g ∈ (cascadeStep gs z).1, g.HasHistory := by
  induction gs generalizing z with
  | nil => exact ⟨rfl, h⟩
  | cons g gs ih =>
    obtain ⟨⟨hre, him⟩, hgs⟩ := List.forall_mem_cons.mp h
    obtain ⟨hlen, hrest⟩ := ih hgs ⟨(sectionDf g g.re z.re).2, (sectionDf g g.im z.im).2⟩
    have hg : Section.HasHistory { g with re := (sectionDf g g.re z.re).1, im := (sectionDf g g.im z.im).1 } :=
      ⟨df_hasLength (a := [g.a1, g.a2]) hre _ _ _, df_hasLength (a := [g.a1, g.a2]) him _ _ _⟩
    exact ⟨congrArg (· + 1) hlen, List.forall_mem_cons.mpr ⟨hg, hrest⟩⟩

theorem iirStep_of_direct {g : Iir} (hmode : g.mode = .direct) (z : Cpx) :
    (iirStep g z).1 = { g with
      re := (df ((g.b[0]?).getD fZero) g.b.tail g.a g.re z.re).1
      im := (df ((g.b[0]?).getD fZero) g.b.tail g.a g.im z.im).1 } := by
  simp only [iirStep, hmode]

theorem iirStep_of_cascade {g : Iir} (hmode : g.mode = .cascade) (z : Cpx) :
    (iirStep g z).1 = { g with sections := (cascadeStep g.sections z).1 } := by
  simp only [iirStep, hmode]

@[simp] theorem iirStep_cfg (g : Iir) (z : Cpx) : (iirStep g z).1.cfg = g.cfg := by
  cases hmode : g.mode with
  | direct => rw [iirStep_of_direct hmode]
  | cascade => rw [iirStep_of_cascade hmode]

theorem iirStep_ok {g : Iir} (hcfg : g.cfg = true) (h : g.Ok) (z : Cpx) : (iirStep g z).1.Ok := by
  cases hmode : g.mode with
  | direct =>
    obtain ⟨hlo, hhi, hb, hre, him, hsections⟩ := (Iir.ok_of_direct hcfg hmode).mp h
    rw [iirStep_of_direct hmode, Iir.ok_of_direct (by exact hcfg) (by exact hmode)]
    exact ⟨hlo, hhi, hb, df_hasLength hre _ _ _, df_hasLength him _ _ _, hsections⟩
  | cascade =>
    obtain ⟨hlo, hhi, hb, ha, hre, him, hsections⟩ := (Iir.ok_of_cascade hcfg hmode).mp h
    obtain ⟨hlen, hsections'⟩ := cascadeStep_ok hsections z
    rw [iirStep_of_cascade hmode, Iir.ok_of_cascade (by exact hcfg) (by exact hmode), Iir.nsec, hlen]
    exact ⟨hlo, hhi, hb, ha, hre, him, hsections'⟩

theorem iirRun_ok {g : Iir} (hcfg : g.cfg = true) (h : g.Ok) (xs : List Cpx) : (iirRun g xs).1.Ok := by
  induction xs generalizing g with
  | nil => exact h
  | cons z zs ih => exact ih (by simpa using hcfg) (iirStep_ok hcfg h z)

theorem configuredIir_ok {mode : Nib} {n : Nat} {cs : List F64} (hmode : mode = 0#4 ∨ mode = 1#4)
    (hdirect : mode = 0#4 → 1 ≤ n ∧ n ≤ Config.iirMaxOrder) (hcascade : mode = 1#4 → 1 ≤ n ∧ n ≤ Config.iirMaxSections)
    (hcs : cs.length = iirCoeffCount mode n) : (configuredIir mode n cs).Ok := by
  rcases hmode with rfl | rfl
  · have hlen : cs.length = 2 * n + 1 := hcs
    have horder : (configuredIir 0#4 n cs).order = n := by simp [configuredIir, Iir.order]; omega
    have hb : (configuredIir 0#4 n cs).b.length = n + 1 := by simp [configuredIir]; omega
    rw [Iir.ok_of_direct rfl rfl, horder, hb]
    exact ⟨(hdirect rfl).1, (hdirect rfl).2, rfl, hist_zero_hasLength n, hist_zero_hasLength n, rfl⟩
  · have hnsec : (configuredIir 1#4 n cs).nsec = n := by simp [configuredIir, Iir.nsec]
    rw [Iir.ok_of_cascade rfl rfl, hnsec]
    refine ⟨(hcascade rfl).1, (hcascade rfl).2, rfl, rfl, rfl, rfl, List.forall_mem_map.mpr fun k _ => ?_⟩
    exact ⟨hist_zero_hasLength 2, hist_zero_hasLength 2⟩

theorem clearHistories_ok {g : Iir} (hcfg : g.cfg = true) (h : g.Ok) : (clearHistories g).Ok := by
  cases hmode : g.mode with
  | direct =>
    obtain ⟨hlo, hhi, hb, -, -, hsections⟩ := (Iir.ok_of_direct hcfg hmode).mp h
    refine (Iir.ok_of_direct (g := clearHistories g) hcfg hmode).mpr
      ⟨hlo, hhi, hb, hist_zero_hasLength _, hist_zero_hasLength _, ?_⟩
    rw [clearHistories, hsections, List.map_nil]
  | cascade =>
    obtain ⟨hlo, hhi, hb, ha, -, -, -⟩ := (Iir.ok_of_cascade hcfg hmode).mp h
    have horder : g.order = 0 := by simp [Iir.order, ha]
    have hnsec : (clearHistories g).nsec = g.nsec := by simp [clearHistories, Iir.nsec]
    rw [Iir.ok_of_cascade (g := clearHistories g) hcfg hmode, hnsec, clearHistories, horder]
    exact ⟨hlo, hhi, hb, ha, rfl, rfl,
      List.forall_mem_map.mpr fun c _ => ⟨hist_zero_hasLength 2, hist_zero_hasLength 2⟩⟩

/-! ## Goertzel detectors (R394-R396) -/

theorem Goertzel.ok_of_cfg {g : Goertzel} (hcfg : g.cfg = true) :
    g.Ok ↔ g.cnt < g.nbin ∧ g.nbin < 2 ^ 32 ∧ g.lim < 2 ^ 32 ∧ g.dcnt < 2 ^ 32 ∧ g.quiet < 2 ^ 32 := by
  simp [Goertzel.Ok, hcfg]

theorem saturatingSucc_lt (n : Nat) : saturatingSucc n < 2 ^ 32 :=
  (Nat.min_le_right _ _).trans_lt (by decide)

/-- What the detector keeps of a configured unit in its ranges: it only moves its own two counters. -/
structure DetectorKeeps (g g' : Goertzel) : Prop where
  cfg : g'.cfg = g.cfg
  nbin : g'.nbin = g.nbin
  lim : g'.lim = g.lim
  cnt : g'.cnt = g.cnt
  dcnt : g.dcnt < 2 ^ 32 → g'.dcnt < 2 ^ 32
  quiet : g.quiet < 2 ^ 32 → g'.quiet < 2 ^ 32

theorem threeTone_keeps (g : Goertzel) (pc plo phi : F64) : DetectorKeeps g (threeTone g pc plo phi) := by
  unfold threeTone
  dsimp only
  split
  · split
    · exact ⟨rfl, rfl, rfl, rfl, fun _ => Nat.two_pow_pos 32, id⟩
    · exact ⟨rfl, rfl, rfl, rfl, fun _ => saturatingSucc_lt g.dcnt, id⟩
  · exact ⟨rfl, rfl, rfl, rfl, fun _ => Nat.two_pow_pos 32, id⟩

theorem adaptive_keeps (g : Goertzel) (pc : F64) : DetectorKeeps g (adaptive g pc) := by
  unfold adaptive
  dsimp only
  split
  · exact ⟨rfl, rfl, rfl, rfl, id, fun _ => Nat.two_pow_pos 32⟩
  · split
    · exact ⟨rfl, rfl, rfl, rfl, id, fun _ => Nat.two_pow_pos 32⟩
    · exact ⟨rfl, rfl, rfl, rfl, id, fun _ => saturatingSucc_lt g.quiet⟩

theorem detect_keeps (g : Goertzel) (pc plo phi : F64) : DetectorKeeps g (detect g pc plo phi) := by
  unfold detect
  split
  · exact ⟨rfl, rfl, rfl, rfl, id, id⟩
  · exact threeTone_keeps g pc plo phi
  · exact adaptive_keeps g pc

/-- The end of a bin leaves the count at 0. -/
theorem gzBinEnd_keeps (g : Goertzel) : DetectorKeeps { g with cnt := 0 } (gzBinEnd g).1 := by
  have hreset : DetectorKeeps { g with cnt := 0 } (gzResetBins g) := by
    unfold gzResetBins
    split <;> exact ⟨rfl, rfl, rfl, rfl, id, id⟩
  have hdetect := detect_keeps (gzResetBins g) (binPower g.bin0) (offPower g g.bin1) (offPower g g.bin2)
  exact ⟨hdetect.cfg.trans hreset.cfg, hdetect.nbin.trans hreset.nbin, hdetect.lim.trans hreset.lim,
    hdetect.cnt.trans hreset.cnt, hdetect.dcnt ∘ hreset.dcnt, hdetect.quiet ∘ hreset.quiet⟩

theorem DetectorKeeps.ok {g g' : Goertzel} (hkeeps : DetectorKeeps g g') (hcfg : g.cfg = true) (h : g.Ok) :
    g'.Ok := by
  obtain ⟨hcnt, hnbin, hlim, hdcnt, hquiet⟩ := (Goertzel.ok_of_cfg hcfg).mp h
  rw [Goertzel.ok_of_cfg (hkeeps.cfg.trans hcfg), hkeeps.cnt, hkeeps.nbin, hkeeps.lim]
  exact ⟨hcnt, hnbin, hlim, hkeeps.dcnt hdcnt, hkeeps.quiet hquiet⟩

theorem gzAccumulate_keeps (g : Goertzel) (v : F64) : DetectorKeeps g (gzAccumulate g v) := by
  unfold gzAccumulate
  split <;> exact ⟨rfl, rfl, rfl, rfl, id, id⟩

theorem gzStep_ok {g : Goertzel} (hcfg : g.cfg = true) (h : g.Ok) (z : Cpx) :
    (gzStep g z).1.cfg = true ∧ (gzStep g z).1.Ok := by
  have hkeeps := gzAccumulate_keeps g (gzSelect g.insel z)
  have hcfg' := hkeeps.cfg.trans hcfg
  obtain ⟨hcnt, hnbin, hlim, hdcnt, hquiet⟩ := (Goertzel.ok_of_cfg hcfg').mp (hkeeps.ok hcfg h)
  unfold gzStep
  generalize gzAccumulate g (gzSelect g.insel z) = g' at *
  dsimp only
  split
  · have hend := gzBinEnd_keeps { g' with cnt := g'.cnt + 1 }
    exact ⟨hend.cfg.trans hcfg', hend.ok hcfg' ((Goertzel.ok_of_cfg (g := { g' with cnt := 0 }) hcfg').mpr
      ⟨Nat.zero_lt_of_lt hcnt, hnbin, hlim, hdcnt, hquiet⟩)⟩
  · rename_i hne
    exact ⟨hcfg', (Goertzel.ok_of_cfg (g := { g' with cnt := g'.cnt + 1 }) hcfg').mpr
      ⟨lt_of_le_of_ne hcnt hne, hnbin, hlim, hdcnt, hquiet⟩⟩

theorem gzRun_ok {g : Goertzel} (hcfg : g.cfg = true) (h : g.Ok) (xs : List Cpx) : (gzRun g xs).1.Ok := by
  induction xs generalizing g with
  | nil => exact h
  | cons z zs ih =>
    obtain ⟨hcfg', h'⟩ := gzStep_ok hcfg h z
    exact ih hcfg' h'

theorem configuredGoertzel_ok (mode : Nib) {n : Word} (m p : Word) (k0 k1 k2 : F64) (hn : 1 ≤ n.toNat) :
    (configuredGoertzel mode n m p k0 k1 k2).Ok :=
  (Goertzel.ok_of_cfg rfl).mpr ⟨hn, n.isLt, m.isLt, Nat.two_pow_pos 32, Nat.two_pow_pos 32⟩

/-! ## Mixers (R422-R424) -/

theorem Nco.ok_of_cfg {o : Nco} (hcfg : o.cfg = true) : o.Ok ↔ isFinite o.fs = true ∧ flt fZero o.fs = true := by
  simp [Nco.Ok, hcfg]

/-- The range of a mixer is that of its sample rate. -/
theorem Nco.Ok.of_sameRate {o o' : Nco} (h : o.Ok) (hcfg : o.cfg = true) (hcfg' : o'.cfg = o.cfg) (hfs : o'.fs = o.fs) :
    o'.Ok := by
  rw [Nco.ok_of_cfg (hcfg'.trans hcfg), hfs]
  exact (Nco.ok_of_cfg hcfg).mp h

/-! ## The unit banks -/

/-- The written unit is in its ranges. -/
def UnitWrite.Ok : UnitWrite → Prop
  | .nothing => True
  | .dl _ l => l.Ok
  | .hb _ h => h.Ok
  | .ch _ c => c.Ok
  | .fir _ f => f.Ok
  | .iir _ g => g.Ok
  | .gz _ g => g.Ok
  | .nco _ o => o.Ok

theorem UnitInv.of_sameUnits {s t : State} (h : UnitInv s) (hunits : SameUnits s t) : UnitInv t where
  dl j := by rw [hunits.dlAt]; exact h.dl j
  hb j := by rw [hunits.hbAt]; exact h.hb j
  ch j := by rw [hunits.chAt]; exact h.ch j
  fir j := by rw [hunits.firAt]; exact h.fir j
  iir j := by rw [hunits.iirAt]; exact h.iir j
  gz j := by rw [hunits.gzAt]; exact h.gz j
  nco j := by rw [hunits.ncoAt]; exact h.nco j

theorem UnitInv.apply {s : State} (h : UnitInv s) {w : UnitWrite} (hw : w.Ok) : UnitInv (w.apply s) := by
  cases w with
  | nothing => exact h
  | dl i l => exact { h with dl := forall_getD_setIfInBounds i h.dl hw }
  | hb i g => exact { h with hb := forall_getD_setIfInBounds i h.hb hw }
  | ch i c => exact { h with ch := forall_getD_setIfInBounds i h.ch hw }
  | fir i f => exact { h with fir := forall_getD_setIfInBounds i h.fir hw }
  | iir i g => exact { h with iir := forall_getD_setIfInBounds i h.iir hw }
  | gz i g => exact { h with gz := forall_getD_setIfInBounds i h.gz hw }
  | nco i o => exact { h with nco := forall_getD_setIfInBounds i h.nco hw }

theorem unitInv_reset : UnitInv State.reset where
  dl j := by rw [State.dlAt, State.reset, getD_replicate]; rfl
  hb j := by rw [State.hbAt, State.reset, getD_replicate]; rfl
  ch j := by rw [State.chAt, State.reset, getD_replicate]; exact ⟨Nat.zero_le _, by simp [Chain.reset]⟩
  fir j := by rw [State.firAt, State.reset, getD_replicate]; rfl
  iir j := by rw [State.iirAt, State.reset, getD_replicate]; rfl
  gz j := by rw [State.gzAt, State.reset, getD_replicate]; rfl
  nco j := by rw [State.ncoAt, State.reset, getD_replicate]; rfl

/-- Every unit write of a command is in the ranges of its rule. -/
theorem UnitWriteOf.ok {s : State} {i : Instr} {w : UnitWrite} (hw : UnitWriteOf s i w) (h : UnitInv s) : w.Ok := by
  cases hw with
  | nothing => trivial
  | dlCfg hlo hhi hm =>
    exact (DelayLine.ok_of_cfg rfl).mpr (by simpa [DelayLine.size] using ⟨hlo, hhi, hm, hlo⟩)
  | dlPush hcfg xs => exact foldl_newSample_ok hcfg (h.dl _) xs
  | hbCfg hn => exact configuredHalfband_ok _ _ _ _ _ hn
  | hbRun hcfg xs => exact Halfband.apply_ok hcfg (h.hb _) xs
  | chBuild => exact buildChain_ok _ _ _
  | chProc xs => exact runStages_chain_ok (h.ch _) xs
  | firCfg hmode hlo hhi htd hfd => exact configuredFir_ok hmode (by simpa) (by simpa) htd (by simpa)
  | firRunTd hmode hcfg xs =>
    rw [tdRun_fst]
    exact foldl_newSample_ok hcfg (h.dl _) xs
  | firRunFd hmode hcfg xs => exact fdTail_ok hcfg (h.fir _) xs
  | iirCfg hmode hdirect hcascade => exact configuredIir_ok hmode hdirect hcascade (by simp)
  | iirRun hcfg xs => exact iirRun_ok hcfg (h.iir _) xs
  | iirClr hcfg => exact clearHistories_ok hcfg (h.iir _)
  | gzCfg hn => exact configuredGoertzel_ok _ _ _ _ _ _ hn
  | gzRun hcfg xs => exact gzRun_ok hcfg (h.gz _) xs
  | ncoCfg hfs => exact (Nco.ok_of_cfg rfl).mpr hfs
  | ncoFreq hcfg => exact (h.nco _).of_sameRate hcfg rfl rfl
  | ncoMix hcfg phase => exact (h.nco _).of_sameRate hcfg rfl rfl

/-- Every command keeps every unit in the ranges of its rule. -/
theorem exec_unitInv {i : Instr} {s t : State} (h : UnitInv s) (hexec : exec i s = .next t) : UnitInv t := by
  cases exec_outcome hexec with
  | fault c v _ ht =>
    subst ht
    exact h.of_sameUnits (takeFault_entered c v s).units
  | control hdone => exact h.of_sameUnits hdone.sameUnits
  | done w hw _ hunits _ => exact (h.apply (hw.ok h)).of_sameUnits hunits

end Sys2Proof.Machine
end

section
/-! PROOFS. What a step can do (spec/60_exceptions.md R450, R458, R480): a host move, or a turn of the sequencer; and the
invariants a step keeps. -/

namespace Sys2Proof.Machine

/-! ## Host moves -/

/-- Everything a host write of a control register can do (R46, R47, R480). -/
inductive CsrWritten (s : State) : State → Prop
  | ignored : CsrWritten s s
  | softResetRequested (hbusy : s.status.busy = true) : CsrWritten s { s with sresetReq := true }
  | abortRequested (hbusy : s.status.busy = true) : CsrWritten s { s with abortReq := true }
  | softReset : CsrWritten s (softReset s)
  | started (hfault : s.status.fault = false) : CsrWritten s (startRun s)
  | status (v : Word) : CsrWritten s { s with status := clearStatus s.status v }
  | cp (v : Word) : CsrWritten s { s with cp := v }
  | lc (v : Word) : CsrWritten s { s with lc := v }
  | irqEn (q : IrqBits) : CsrWritten s { s with irqEn := q }
  | irqPend (q : IrqBits) : CsrWritten s { s with irqPend := q }

theorem writeCtrl_written (s : State) (v : Word) : CsrWritten s (writeCtrl s v) := by
  unfold writeCtrl
  split
  · split
    · rename_i hbusy
      exact .softResetRequested hbusy
    · exact .softReset
  · split
    · split
      · rename_i hbusy
        exact .abortRequested hbusy
      · exact .ignored
    · split
      · split
        · rename_i hidle
          exact .started (by simpa using (Bool.and_eq_true_iff.mp hidle).2)
        · exact .ignored
      · exact .ignored

theorem writeCsr_written (s : State) (o : BitVec 8) (v : Word) : CsrWritten s (writeCsr s o v) := by
  unfold writeCsr
  split
  · exact writeCtrl_written s v
  · exact .status v
  · split
    · exact .ignored
    · exact .cp v
  · split
    · exact .ignored
    · exact .lc v
  · exact .irqEn _
  · exact .irqPend _
  · exact .ignored

/-- Everything a host move can do (R480). -/
inductive HostMoved (s : State) : State → Prop
  | answered (r : HostResponse) : HostMoved s { s with response := r }
  | written {t : State} (hcsr : CsrWritten s t) : HostMoved s t
  | stored (m : Memory) : HostMoved s (s.setDmem m)
  | reset (cells : List Host.Cell) : HostMoved s (hardwareReset s cells)

theorem hostMove_moved {mv : HostMove} {s t : State} (h : hostMove mv s = .next t) : HostMoved s t := by
  cases mv with
  | readCsr o width =>
    simp only [hostMove] at h
    split at h
    · cases h
      exact .answered _
    · cases h
  | writeCsr o width v =>
    simp only [hostMove] at h
    split at h
    · cases h
      exact .written (writeCsr_written s o v)
    · cases h
  | readDmem addr count =>
    simp only [hostMove] at h
    split at h
    · cases h
    · split at h
      · cases h
        exact .answered _
      · cases h
  | writeDmem addr bytes =>
    simp only [hostMove] at h
    split at h
    · cases h
    · split at h
      · cases h
        exact .stored _
      · cases h
  | observeIrq =>
    cases h
    exact .answered _
  | hardwareReset cells =>
    cases h
    exact .reset cells

/-! ## Turns of the sequencer -/

/-- Everything a turn of the sequencer can do (R450, R453, R458). -/
inductive SequencerTurn (s : State) : State → Prop
  | idle : SequencerTurn s s
  | softReset : SequencerTurn s (softReset s)
  | abort (hbusy : s.status.busy = true) (hsreset : s.sresetReq = false) : SequencerTurn s (abortRun s)
  | fault (hbusy : s.status.busy = true) (c : Cause) (v : Word) (hcause : c ≠ .none) :
    SequencerTurn s (atBoundary (takeFault c v s))
  | command (hbusy : s.status.busy = true) {i : Instr} {e : State} (hexec : exec i s = .next e) :
    SequencerTurn s (atBoundary e)

/-- The outcome of an action. -/
def Action.outcome : Action → Result
  | .settled o => o
  | .run i s => afterCommand (exec i s)

theorem step_eq_outcome (s : State) : step s = (nextAction s).outcome := by
  unfold step Action.outcome
  cases nextAction s <;> rfl

theorem fetchFault_cause {s : State} {c : Cause} {v : Word} (h : firstFault (fetchChecks s) = some (c, v)) :
    c ≠ .none := by
  have hraise : AllRaise (fetchChecks s) := by simp [fetchChecks]
  obtain ⟨before, k, rest, hlist, -, rfl, -, -⟩ := firstFault_eq_some h
  exact hraise k (by simp [hlist])

theorem decodeAction_turn {s t : State} (hbusy : s.status.busy = true) (h : (decodeAction s).outcome = .next t) :
    SequencerTurn s t := by
  unfold decodeAction at h
  split at h
  · cases h
    exact .fault hbusy _ _ (by simp)
  · cases h
    exact .fault hbusy _ _ (by simp)
  · rename_i i _
    simp only [Action.outcome] at h
    cases hexec : exec i s with
    | next e =>
      rw [hexec] at h
      cases h
      exact .command hbusy hexec
    | fault f =>
      rw [hexec] at h
      cases h
    | refused r =>
      rw [hexec] at h
      cases h

theorem sequencerAction_turn {s t : State} (h : (sequencerAction s).outcome = .next t) : SequencerTurn s t := by
  unfold sequencerAction at h
  split at h
  · cases h
    exact .idle
  · rename_i hidle
    have hbusy : s.status.busy = true := by simpa using hidle
    split at h
    · cases h
      exact .softReset
    · rename_i hsreset
      split at h
      · cases h
        exact .abort hbusy (by simpa using hsreset)
      · split at h
        · rename_i hfault
          cases h
          exact .fault hbusy _ _ (fetchFault_cause hfault)
        · exact decodeAction_turn hbusy h

/-- Everything a step can do: once the host's slot is consumed, a host move or a turn of the sequencer. -/
theorem step_cases {s t : State} (h : step s = .next t) :
    ∃ slots, HostMoved { s with inputs := slots } t ∨ SequencerTurn { s with inputs := slots } t := by
  rw [step_eq_outcome] at h
  unfold nextAction at h
  split at h
  · exact ⟨_, .inl (hostMove_moved h)⟩
  · exact ⟨_, .inr (sequencerAction_turn h)⟩
  · exact ⟨s.inputs, .inr (sequencerAction_turn h)⟩

/-- An invariant that does not depend on the host's slots is kept by a step if every host move and every turn of the
sequencer keep it. -/
theorem step_keeps {P : State → Prop} (hslots : ∀ s slots, P s → P { s with inputs := slots })
    (hhost : ∀ s t, P s → HostMoved s t → P t) (hturn : ∀ s t, P s → SequencerTurn s t → P t) {s t : State} (h : P s)
    (hstep : step s = .next t) : P t := by
  obtain ⟨slots, hmoved | hturned⟩ := step_cases hstep
  · exact hhost _ _ (hslots s slots h) hmoved
  · exact hturn _ _ (hslots s slots h) hturned

/-! ## The unit ranges (R65-R72) -/

theorem softReset_unitInv (s : State) : UnitInv (softReset s) := unitInv_reset.of_sameUnits (by constructor <;> rfl)

theorem hostMoved_unitInv {s t : State} (h : UnitInv s) (hmoved : HostMoved s t) : UnitInv t := by
  cases hmoved with
  | answered r => exact h.of_sameUnits (by constructor <;> rfl)
  | stored m => exact h.of_sameUnits (by constructor <;> rfl)
  | reset cells => exact unitInv_reset.of_sameUnits (by constructor <;> rfl)
  | written hcsr =>
    cases hcsr with
    | softReset => exact softReset_unitInv s
    | _ => exact h.of_sameUnits (by constructor <;> rfl)

theorem atBoundary_unitInv {s : State} (h : UnitInv s) : UnitInv (atBoundary s) := by
  unfold atBoundary endRun
  split
  · exact h
  · split
    · exact softReset_unitInv s
    · exact h.of_sameUnits (by constructor <;> rfl)

theorem sequencerTurn_unitInv {s t : State} (h : UnitInv s) (hturn : SequencerTurn s t) : UnitInv t := by
  cases hturn with
  | idle => exact h
  | softReset => exact softReset_unitInv s
  | abort => exact h.of_sameUnits (by constructor <;> rfl)
  | fault _ c v _ => exact atBoundary_unitInv (h.of_sameUnits (takeFault_entered c v s).units)
  | command _ hexec => exact atBoundary_unitInv (exec_unitInv h hexec)

/-- Settles O18: host moves and resets leave the banks as they are or as after reset, and a command writes at most one
unit, within its ranges. -/
theorem stepKeepsUnitRanges : Obligations.StepKeepsUnitRanges := by
  unfold Obligations.StepKeepsUnitRanges
  intro s t h hstep
  exact step_keeps (fun _ _ h => h.of_sameUnits (by constructor <;> rfl)) (fun _ _ => hostMoved_unitInv)
    (fun _ _ => sequencerTurn_unitInv) h hstep

/-! ## The run's flags and latches (R51, R73, R482, R483) -/

/-- After the boundary only the flags have to agree: the latches of a run that has ended are consumed there. -/
theorem atBoundary_runInv {s : State} (hrun : s.status.busy = true →
      s.status.fault = false ∧ s.status.done = false ∧ s.status.aborted = false)
    (hfault : s.status.fault = true → s.cause ≠ .none) : RunInv (atBoundary s) := by
  unfold atBoundary endRun
  split
  · rename_i hbusy
    exact ⟨hrun, fun hidle => absurd hbusy (Bool.eq_false_iff.mp hidle), hfault⟩
  · rename_i hidle
    split
    · exact ⟨nofun, fun _ => ⟨rfl, rfl⟩, nofun⟩
    · rename_i hsreset
      exact ⟨hrun, fun _ => ⟨rfl, by simpa using hsreset⟩, hfault⟩

theorem softReset_runInv (s : State) : RunInv (softReset s) := ⟨nofun, fun _ => ⟨rfl, rfl⟩, nofun⟩

theorem csrWritten_runInv {s t : State} (h : RunInv s) (hcsr : CsrWritten s t) : RunInv t := by
  obtain ⟨hrun, hlatch, hfault⟩ := h
  cases hcsr with
  | softResetRequested hbusy =>
    exact ⟨hrun, fun hidle => absurd hbusy (Bool.eq_false_iff.mp hidle), hfault⟩
  | abortRequested hbusy =>
    exact ⟨hrun, fun hidle => absurd hbusy (Bool.eq_false_iff.mp hidle), hfault⟩
  | softReset => exact softReset_runInv s
  | started hnofault => exact ⟨fun _ => ⟨hnofault, rfl, rfl⟩, nofun, hfault⟩
  | status v =>
    refine ⟨fun hbusy => ?_, hlatch, fun hf => hfault (Bool.and_eq_true_iff.mp hf).1⟩
    obtain ⟨hf, hd, ha⟩ := hrun hbusy
    simp [clearStatus, hf, hd, ha]
  | _ => exact ⟨hrun, hlatch, hfault⟩

theorem hostMoved_runInv {s t : State} (h : RunInv s) (hmoved : HostMoved s t) : RunInv t := by
  cases hmoved with
  | answered r => exact ⟨h.running, h.latched, h.faulted⟩
  | stored m => exact ⟨h.running, h.latched, h.faulted⟩
  | reset cells => exact ⟨nofun, fun _ => ⟨rfl, rfl⟩, nofun⟩
  | written hcsr => exact csrWritten_runInv h hcsr

/-- A command that ends with the flags of its start, and the same cause, leaves them in agreement. -/
theorem atBoundary_runInv_of_sameFlags {s e : State} (h : RunInv s) (hstatus : e.status = s.status)
    (hcause : e.cause = s.cause) : RunInv (atBoundary e) := by
  apply atBoundary_runInv
  · rw [hstatus]
    exact h.running
  · rw [hstatus, hcause]
    exact h.faulted

theorem atBoundary_takeFault_runInv (s : State) {c : Cause} (v : Word) (hcause : c ≠ .none) :
    RunInv (atBoundary (takeFault c v s)) :=
  atBoundary_runInv nofun fun _ => hcause

theorem command_runInv {i : Instr} {s e : State} (h : RunInv s) (hexec : exec i s = .next e) :
    RunInv (atBoundary e) := by
  cases exec_outcome hexec with
  | fault c v hcause ht =>
    subst ht
    exact atBoundary_takeFault_runInv s v hcause
  | control hdone =>
    cases hdone with
    | halt => exact atBoundary_runInv nofun h.faulted
    | loop a =>
      rw [loopEffect_eq]
      exact atBoundary_runInv_of_sameFlags h rfl rfl
    | _ => exact atBoundary_runInv_of_sameFlags h rfl rfl
  | done w _ hcompleted _ _ =>
    exact atBoundary_runInv_of_sameFlags h hcompleted.control.status hcompleted.control.cause

theorem sequencerTurn_runInv {s t : State} (h : RunInv s) (hturn : SequencerTurn s t) : RunInv t := by
  cases hturn with
  | idle => exact h
  | softReset => exact softReset_runInv s
  | abort hbusy hsreset => exact ⟨nofun, fun _ => ⟨rfl, hsreset⟩, h.faulted⟩
  | fault _ c v hcause => exact atBoundary_takeFault_runInv s v hcause
  | command _ hexec => exact command_runInv h hexec

/-- Settles O17: a start sets BUSY only without FAULT, and every end of a run consumes the latches at its boundary. -/
theorem stepKeepsRunFlags : Obligations.StepKeepsRunFlags := by
  unfold Obligations.StepKeepsRunFlags
  intro s t h hstep
  exact step_keeps (fun _ _ h => ⟨h.running, h.latched, h.faulted⟩) (fun _ _ => hostMoved_runInv)
    (fun _ _ => sequencerTurn_runInv) h hstep

/-- Settles O19. -/
theorem resetMeetsTheInvariant : Obligations.ResetMeetsTheInvariant where
  memory := ⟨reset_memory_ok.1, reset_memory_ok.2⟩
  run := ⟨nofun, fun _ => ⟨rfl, rfl⟩, nofun⟩
  units := unitInv_reset

end Sys2Proof.Machine
end

section
/-! PROOFS. What a command leaves alone: the registers that are not its own (spec/10_state.md R45, R51, R58-R60, R73) and
the units it does not name (R65, R74). -/

namespace Sys2Proof.Machine

/-! ## Registers -/

/-- The claim of O12 on one command, its start and its end. -/
structure RegistersKept (i : Instr) (s t : State) : Prop where
  lastCount : reportsCount i = false → t.lastCount = s.lastCount
  lc : writesLoopCounter i = false → t.lc = s.lc
  irqEn : t.irqEn = s.irqEn
  sresetReq : t.sresetReq = s.sresetReq
  inputs : t.inputs = s.inputs
  response : t.response = s.response
  pendDone : s.irqPend.done = true → t.irqPend.done = true
  pendFault : s.irqPend.fault = true → t.irqPend.fault = true
  pendSignal : s.irqPend.signal = true → t.irqPend.signal = true
  pendAbort : t.irqPend.abort = s.irqPend.abort
  onlyHalt : i ≠ .halt → t.irqPend.done = s.irqPend.done ∧ t.status.done = s.status.done
  onlySignal : i ≠ .signal → t.irqPend.signal = s.irqPend.signal
  statusDone : s.status.done = true → t.status.done = true
  statusFault : s.status.fault = true → t.status.fault = true
  aborted : t.status.aborted = s.status.aborted

theorem takeFault_registersKept (i : Instr) (c : Cause) (v : Word) (s : State) : RegistersKept i s (takeFault c v s) where
  lastCount _ := rfl
  lc _ := rfl
  irqEn := rfl
  sresetReq := rfl
  inputs := rfl
  response := rfl
  pendDone := id
  pendFault _ := rfl
  pendSignal := id
  pendAbort := rfl
  onlyHalt _ := ⟨rfl, rfl⟩
  onlySignal _ := rfl
  statusDone := id
  statusFault _ := rfl
  aborted := rfl

/-- A command that keeps the flags and the registers named here keeps what O12 says. -/
theorem RegistersKept.of_sameFlags {i : Instr} {s t : State} (hstatus : t.status = s.status)
    (hpend : t.irqPend = s.irqPend) (hcount : reportsCount i = false → t.lastCount = s.lastCount)
    (hlc : writesLoopCounter i = false → t.lc = s.lc) (hen : t.irqEn = s.irqEn) (hsreset : t.sresetReq = s.sresetReq)
    (hinputs : t.inputs = s.inputs) (hresponse : t.response = s.response) : RegistersKept i s t where
  lastCount := hcount
  lc := hlc
  irqEn := hen
  sresetReq := hsreset
  inputs := hinputs
  response := hresponse
  pendDone h := by rwa [hpend]
  pendFault h := by rwa [hpend]
  pendSignal h := by rwa [hpend]
  pendAbort := by rw [hpend]
  onlyHalt _ := by rw [hpend, hstatus]; exact ⟨rfl, rfl⟩
  onlySignal _ := by rw [hpend]
  statusDone h := by rwa [hstatus]
  statusFault h := by rwa [hstatus]
  aborted := by rw [hstatus]

theorem controlDone_registersKept {i : Instr} {s t : State} (h : ControlDone s i t) : RegistersKept i s t := by
  cases h with
  | halt =>
    exact { lastCount := fun _ => rfl, lc := fun _ => rfl, irqEn := rfl, sresetReq := rfl, inputs := rfl
            response := rfl, pendDone := fun _ => rfl, pendFault := id, pendSignal := id, pendAbort := rfl
            onlyHalt := fun hne => absurd rfl hne, onlySignal := fun _ => rfl, statusDone := fun _ => rfl
            statusFault := id, aborted := rfl }
  | signal =>
    exact { lastCount := fun _ => rfl, lc := fun _ => rfl, irqEn := rfl, sresetReq := rfl, inputs := rfl
            response := rfl, pendDone := id, pendFault := id, pendSignal := fun _ => rfl, pendAbort := rfl
            onlyHalt := fun _ => ⟨rfl, rfl⟩, onlySignal := fun hne => absurd rfl hne, statusDone := id
            statusFault := id, aborted := rfl }
  | jump a => exact .of_sameFlags rfl rfl (fun _ => rfl) (fun _ => rfl) rfl rfl rfl rfl
  | lset n => exact .of_sameFlags rfl rfl (fun _ => rfl) nofun rfl rfl rfl rfl
  | loop a =>
    rw [loopEffect_eq]
    exact .of_sameFlags rfl rfl (fun _ => rfl) nofun rfl rfl rfl rfl

theorem exec_registersKept {i : Instr} {s t : State} (h : exec i s = .next t) : RegistersKept i s t := by
  cases exec_outcome h with
  | fault c v _ ht =>
    subst ht
    exact takeFault_registersKept i c v s
  | control hdone => exact controlDone_registersKept hdone
  | done w _ hcompleted _ hcount =>
    have hctl := hcompleted.control
    exact .of_sameFlags hctl.status hctl.irqPend hcount (fun _ => hctl.lc) hctl.irqEn hctl.sresetReq hctl.inputs
      hctl.response

/-- Settles O12. -/
theorem registersWrittenOnlyByTheirCommands : Obligations.RegistersWrittenOnlyByTheirCommands := by
  unfold Obligations.RegistersWrittenOnlyByTheirCommands
  intro i s t h
  have k := exec_registersKept h
  exact ⟨⟨k.lastCount, k.lc, k.irqEn, k.sresetReq, k.inputs, k.response⟩, k.pendDone, k.pendFault, k.pendSignal,
    k.pendAbort, k.onlyHalt, k.onlySignal, k.statusDone, k.statusFault, k.aborted⟩

/-! ## Units -/

theorem dlAt_setDl_ne (s : State) {i j : Nat} (l : DelayLine) (h : j ≠ i) : (s.setDl i l).dlAt j = s.dlAt j :=
  getD_setIfInBounds_ne h
theorem hbAt_setHb_ne (s : State) {i j : Nat} (g : Halfband) (h : j ≠ i) : (s.setHb i g).hbAt j = s.hbAt j :=
  getD_setIfInBounds_ne h
theorem chAt_setCh_ne (s : State) {i j : Nat} (c : Chain) (h : j ≠ i) : (s.setCh i c).chAt j = s.chAt j :=
  getD_setIfInBounds_ne h
theorem firAt_setFir_ne (s : State) {i j : Nat} (f : Fir) (h : j ≠ i) : (s.setFir i f).firAt j = s.firAt j :=
  getD_setIfInBounds_ne h
theorem iirAt_setIir_ne (s : State) {i j : Nat} (g : Iir) (h : j ≠ i) : (s.setIir i g).iirAt j = s.iirAt j :=
  getD_setIfInBounds_ne h
theorem gzAt_setGz_ne (s : State) {i j : Nat} (g : Goertzel) (h : j ≠ i) : (s.setGz i g).gzAt j = s.gzAt j :=
  getD_setIfInBounds_ne h
theorem ncoAt_setNco_ne (s : State) {i j : Nat} (o : Nco) (h : j ≠ i) : (s.setNco i o).ncoAt j = s.ncoAt j :=
  getD_setIfInBounds_ne h

/-- The claim of O13 on one command, its start and its end: a unit that changes is one the command may change. -/
structure UnitsIsolated (i : Instr) (s t : State) : Prop where
  dl : ∀ j, ¬ mayChangeDl s i j → t.dlAt j = s.dlAt j
  hb : ∀ j, ¬ mayChangeHb i j → t.hbAt j = s.hbAt j
  ch : ∀ j, ¬ mayChangeCh i j → t.chAt j = s.chAt j
  fir : ∀ j, ¬ mayChangeFir s i j → t.firAt j = s.firAt j
  iir : ∀ j, ¬ mayChangeIir i j → t.iirAt j = s.iirAt j
  gz : ∀ j, ¬ mayChangeGz i j → t.gzAt j = s.gzAt j
  nco : ∀ j, ¬ mayChangeNco i j → t.ncoAt j = s.ncoAt j

theorem UnitsIsolated.of_sameUnits {i : Instr} {s e t : State} (h : UnitsIsolated i s e) (hunits : SameUnits e t) :
    UnitsIsolated i s t where
  dl j hj := (hunits.dlAt j).trans (h.dl j hj)
  hb j hj := (hunits.hbAt j).trans (h.hb j hj)
  ch j hj := (hunits.chAt j).trans (h.ch j hj)
  fir j hj := (hunits.firAt j).trans (h.fir j hj)
  iir j hj := (hunits.iirAt j).trans (h.iir j hj)
  gz j hj := (hunits.gzAt j).trans (h.gz j hj)
  nco j hj := (hunits.ncoAt j).trans (h.nco j hj)

theorem UnitsIsolated.rfl {i : Instr} {s : State} : UnitsIsolated i s s := by constructor <;> exact fun _ _ => Eq.refl _

/-- The command may change the unit it writes. -/
def UnitWrite.Allowed (s : State) (i : Instr) : UnitWrite → Prop
  | .nothing => True
  | .dl j _ => mayChangeDl s i j
  | .hb j _ => mayChangeHb i j
  | .ch j _ => mayChangeCh i j
  | .fir j _ => mayChangeFir s i j
  | .iir j _ => mayChangeIir i j
  | .gz j _ => mayChangeGz i j
  | .nco j _ => mayChangeNco i j

theorem UnitWriteOf.allowed {s : State} {i : Instr} {w : UnitWrite} (hw : UnitWriteOf s i w) : w.Allowed s i := by
  cases hw with
  | nothing => trivial
  | firRunTd hmode _ _ => exact ⟨hmode, rfl⟩
  | firRunFd hmode _ _ => exact ⟨rfl, hmode⟩
  | _ => exact Eq.refl _

theorem UnitWrite.Allowed.isolated {s : State} {i : Instr} {w : UnitWrite} (hw : w.Allowed s i) :
    UnitsIsolated i s (w.apply s) := by
  have other : ∀ {may : Nat → Prop} {j : Nat}, may j → ∀ k, ¬ may k → k ≠ j := fun hj k hk hkj => hk (hkj ▸ hj)
  cases w with
  | nothing => exact .rfl
  | dl j l => exact { UnitsIsolated.rfl with dl := fun k hk => dlAt_setDl_ne s l (other hw k hk) }
  | hb j g => exact { UnitsIsolated.rfl with hb := fun k hk => hbAt_setHb_ne s g (other hw k hk) }
  | ch j c => exact { UnitsIsolated.rfl with ch := fun k hk => chAt_setCh_ne s c (other hw k hk) }
  | fir j f => exact { UnitsIsolated.rfl with fir := fun k hk => firAt_setFir_ne s f (other hw k hk) }
  | iir j g => exact { UnitsIsolated.rfl with iir := fun k hk => iirAt_setIir_ne s g (other hw k hk) }
  | gz j g => exact { UnitsIsolated.rfl with gz := fun k hk => gzAt_setGz_ne s g (other hw k hk) }
  | nco j o => exact { UnitsIsolated.rfl with nco := fun k hk => ncoAt_setNco_ne s o (other hw k hk) }

theorem exec_unitsIsolated {i : Instr} {s t : State} (h : exec i s = .next t) : UnitsIsolated i s t := by
  cases exec_outcome h with
  | fault c v _ ht =>
    subst ht
    exact UnitsIsolated.rfl.of_sameUnits (takeFault_entered c v s).units
  | control hdone => exact UnitsIsolated.rfl.of_sameUnits hdone.sameUnits
  | done w hw _ hunits _ => exact hw.allowed.isolated.of_sameUnits hunits

/-- Settles O13: a command writes at most one unit, one that it may change. -/
theorem unitStateIsIsolated : Obligations.UnitStateIsIsolated := by
  unfold Obligations.UnitStateIsIsolated
  intro i s t h j
  have k := exec_unitsIsolated h
  exact ⟨k.dl j, k.hb j, k.ch j, k.fir j, k.iir j, k.gz j, k.nco j⟩

end Sys2Proof.Machine
end

section
/-! PROOFS. The configuration commands HB.CFG, FIR.CFG and IIR.CFG, with the IIR commands IIR.RUN and IIR.CLR
(spec/43_halfband_cic3.md R290, spec/45_fir.md R350, spec/46_iir.md R372-R376). -/

namespace Sys2Proof.Machine

/-! ## Frames of a unit write -/

theorem onlyHb_of_units {s t : State} {j : Nat} {g : Halfband} (h : SameUnits (s.setHb j g) t) : OnlyHb j s t where
  others k hk := (h.hbAt k).trans (hbAt_setHb_ne s g hk)
  dl := h.dl
  ch := h.ch
  fir := h.fir
  iir := h.iir
  gz := h.gz
  nco := h.nco

theorem onlyFir_of_units {s t : State} {j : Nat} {f : Fir} (h : SameUnits (s.setFir j f) t) : OnlyFir j s t where
  others k hk := (h.firAt k).trans (firAt_setFir_ne s f hk)
  dl := h.dl
  hb := h.hb
  ch := h.ch
  iir := h.iir
  gz := h.gz
  nco := h.nco

theorem onlyIir_of_units {s t : State} {j : Nat} {g : Iir} (h : SameUnits (s.setIir j g) t) : OnlyIir j s t where
  others k hk := (h.iirAt k).trans (iirAt_setIir_ne s g hk)
  dl := h.dl
  hb := h.hb
  ch := h.ch
  fir := h.fir
  gz := h.gz
  nco := h.nco

/-- A command whose effect is one unit write completes as R202 says, and writes neither DMEM nor LAST_COUNT. -/
theorem complete_unitWrite (s : State) (w : UnitWrite) :
    SameUnits (w.apply s) (complete (w.apply s)) ∧ KeptDmem s (complete (w.apply s)) ∧
      Completed s (complete (w.apply s)) ∧ (complete (w.apply s)).lastCount = s.lastCount := by
  have hdone := (WritesOnly.apply w s).completed
  refine ⟨by constructor <;> rfl, ?_, hdone, ?_⟩
  · cases w <;> exact fun _ => rfl
  · cases w <;> rfl

/-! ## HB.CFG (R290) -/

theorem realRegion_checks_ok {a : Word} {n : Nat} (h : LegalReals a n) :
    ∀ c ∈ regionChecks [realRegion a n], c.ok = true :=
  regionChecks_ok (by simpa using (realRegion_ok_iff a n).mpr h)

theorem decimNat_decimOf {p : Word} (hp : p = 2#32 ∨ p = 4#32) : decimNat (decimOf p) = p.toNat := by
  rcases hp with rfl | rfl <;> rfl

section
variable (mem : Memory) (a n m p : Word) (k0 : F64)

theorem configuredHalfband_table : configuredHalfband mem 0#4 a n m p k0 =
    freshHalfband (formOf (Fin.ofNat 14 m.toNat)) (.table (Fin.ofNat 14 m.toNat))
      (if (Fin.ofNat 14 m.toNat).val = 0 then [] else hbCoeff (Fin.ofNat 14 m.toNat))
      (wpass (Fin.ofNat 14 m.toNat)) (decimOf p) := rfl

theorem configuredHalfband_direct : configuredHalfband mem 1#4 a n m p k0 =
    freshHalfband .fir .direct (readReals mem a.toNat n.toNat) k0 (decimOf p) := rfl

theorem configuredHalfband_cic3 : configuredHalfband mem 2#4 a n m p k0 =
    freshHalfband .cic3 .direct [] k0 (decimOf p) := rfl

/-- In every mode the stage is a fresh one with the decimation of `P`. -/
theorem exists_configuredHalfband_eq (mode : Nib) : ∃ form design coeff edge,
    configuredHalfband mem mode a n m p k0 = freshHalfband form design coeff edge (decimOf p) := by
  by_cases h0 : mode = 0#4
  · exact ⟨_, _, _, _, by rw [h0, configuredHalfband_table]⟩
  · by_cases h1 : mode = 1#4
    · exact ⟨_, _, _, _, by rw [h1, configuredHalfband_direct]⟩
    · exact ⟨_, _, _, _, by rw [configuredHalfband, if_neg h0, if_neg h1]⟩

/-- What the stages of the three modes have in common. -/
theorem configuredHalfband_common {p : Word} (mode : Nib) (hp : p = 2#32 ∨ p = 4#32) :
    let h := configuredHalfband mem mode a n m p k0
    h.cfg = true ∧ decimNat h.decim = p.toNat ∧ h.pass0 = PassState.zero (h.tapCount - 1) ∧
      h.pass1 = PassState.zero (h.tapCount - 1) := by
  obtain ⟨form, design, coeff, edge, h⟩ := exists_configuredHalfband_eq mem a n m p k0 mode
  rw [h]
  exact ⟨rfl, decimNat_decimOf hp, rfl, rfl⟩

end

theorem hbCfg_completes {s : State} {u mode : Nib} {a n m p : Word} (k0 : F64) (hu : u.toNat < Config.hbUnits)
    (hp : p = 2#32 ∨ p = 4#32)
    (hmode : mode = 0#4 ∧ m.toNat < 14 ∨
      mode = 1#4 ∧ n.toNat % 2 = 1 ∧ 3 ≤ n.toNat ∧ n.toNat ≤ Config.hbMaxTaps ∧ LegalReals a n.toNat ∨
        mode = 2#4) :
    exec (.hbCfg u mode a n m p k0) s =
      .next (complete (s.setHb u.toNat (configuredHalfband s.dmem mode a n m p k0))) := by
  refine command_of_ok ?_
  rw [List.forall_mem_append]
  rcases hmode with ⟨rfl, hm⟩ | ⟨rfl, hodd, hlo, hhi, hregion⟩ | rfl
  · simpa [hu, hm] using hp
  · exact ⟨by simpa [hu] using ⟨⟨hodd, hlo, hhi⟩, hp⟩, realRegion_checks_ok hregion⟩
  · simpa [hu] using hp

/-- Settles O37, mode by mode. -/
theorem halfbandConfigure : Obligations.HalfbandConfigure := by
  unfold Obligations.HalfbandConfigure
  simp only [BitVec.ofNat_eq_ofNat]
  intro s u mode a n m p k0 hu hp hmode
  obtain ⟨hunits, hdmem, hdone, hcount⟩ :=
    complete_unitWrite s (.hb u.toNat (configuredHalfband s.dmem mode a n m p k0))
  have hat := (hunits.hbAt u.toNat).trans (hbAt_setHb_same s _ (configuredHalfband s.dmem mode a n m p k0) hu)
  obtain ⟨hcfg, hdecim, hpass0, hpass1⟩ := configuredHalfband_common s.dmem a n m k0 mode hp
  refine ⟨_, hbCfg_completes k0 hu hp hmode, ?_⟩
  rw [UnitWrite.apply] at *
  rw [hat]
  refine ⟨?_, ?_, ?_, hcfg, hdecim, hpass0, hpass1, onlyHb_of_units hunits, hdmem, hdone, hcount⟩
  · rintro d rfl hd
    obtain rfl : Fin.ofNat 14 m.toNat = d := Fin.ext (by simp [hd])
    rw [configuredHalfband_table]
    exact ⟨rfl, rfl, rfl, rfl⟩
  · rintro rfl
    rw [configuredHalfband_direct]
    exact ⟨rfl, rfl, rfl, rfl⟩
  · rintro rfl
    rw [configuredHalfband_cic3]
    exact ⟨rfl, rfl, rfl, rfl⟩

/-! ## FIR.CFG (R350) -/

theorem firCfg_completes {s : State} {u mode : Nib} {a n m : Word} (hu : u.toNat < Config.firUnits)
    (hlo : 1 ≤ n.toNat) (hhi : n.toNat ≤ Config.firMaxTaps) (hregion : LegalReals a n.toNat)
    (hmode : mode = 0#4 ∧ m.toNat < Config.dlUnits ∨
      mode = 1#4 ∧ 1 ≤ m.toNat ∧ m.toNat ≤ Config.firMaxBlock ∧ n.toNat ≤ m.toNat + 1) :
    exec (.firCfg u mode a n m) s = .next (complete
      (s.setFir u.toNat (configuredFir mode (readReals s.dmem a.toNat n.toNat) m.toNat))) := by
  refine command_of_ok (List.forall_mem_append.mpr ⟨?_, realRegion_checks_ok hregion⟩)
  rcases hmode with ⟨rfl, hline⟩ | ⟨rfl, hblock⟩
  · simpa [hu, tapCountOk] using ⟨⟨hlo, hhi⟩, hline⟩
  · simpa [hu, tapCountOk] using ⟨⟨hlo, hhi⟩, hblock⟩

/-- Settles O50. -/
theorem firConfigure : Obligations.FirConfigure := by
  unfold Obligations.FirConfigure
  simp only [BitVec.ofNat_eq_ofNat]
  intro s u mode a n m hu hlo hhi hregion hmode
  obtain ⟨hunits, hdmem, hdone, hcount⟩ :=
    complete_unitWrite s (.fir u.toNat (configuredFir mode (readReals s.dmem a.toNat n.toNat) m.toNat))
  have hat := (hunits.firAt u.toNat).trans
    (firAt_setFir_same s _ (configuredFir mode (readReals s.dmem a.toNat n.toNat) m.toNat) hu)
  refine ⟨_, firCfg_completes hu hlo hhi hregion hmode, hat.trans ?_, onlyFir_of_units hunits, hdmem, hdone, hcount⟩
  rcases hmode with ⟨rfl, -⟩ | ⟨rfl, -⟩ <;> simp [configuredFir]

/-! ## The IIR commands (R372-R376) -/

theorem readReals_take (mem : Memory) (a : Nat) {j n : Nat} (h : j ≤ n) :
    (readReals mem a n).take j = readReals mem a j := by
  rw [readReals, readReals, ← List.map_take, List.take_range, Nat.min_eq_left h]

theorem readReals_drop (mem : Memory) (a j n : Nat) : (readReals mem a (j + n)).drop j = readReals mem (a + 8 * j) n := by
  refine List.ext_getElem (by simp) fun k _ _ => ?_
  simp only [List.getElem_drop, readReals_getElem]
  congr 1
  omega

theorem readReals_getD {mem : Memory} {a n k : Nat} (h : k < n) (x : F64) :
    ((readReals mem a n)[k]?).getD x = rdR mem (a + 8 * k) := by
  rw [List.getElem?_eq_getElem (by simpa using h), Option.getD_some, readReals_getElem]

/-- The coefficients of section `k` are the five from `a + 40 * k` up (R372). -/
theorem loadSection_coefficients (mem : Memory) (a : Nat) {k n : Nat} (h : k < n) :
    let c := loadSection (readReals mem a (5 * n)) k
    [c.b0, c.b1, c.b2, c.a1, c.a2] = readReals mem (a + 40 * k) 5 := by
  have hread : ∀ j < 5, ((readReals mem a (5 * n))[5 * k + j]?).getD fZero = rdR mem (a + 40 * k + 8 * j) := by
    intro j hj
    rw [readReals_getD (by omega)]
    congr 1
    omega
  have hfive : ∀ b, readReals mem b 5 = [rdR mem (b + 8 * 0), rdR mem (b + 8 * 1), rdR mem (b + 8 * 2),
      rdR mem (b + 8 * 3), rdR mem (b + 8 * 4)] := fun _ => rfl
  rw [hfive, ← hread 0 (by omega), ← hread 1 (by omega), ← hread 2 (by omega), ← hread 3 (by omega),
    ← hread 4 (by omega)]
  rfl

/-- A configured engine starts with the histories IIR.CLR leaves. -/
theorem clearHistories_configuredIir {mode : Nib} {n : Nat} {cs : List F64}
    (hcs : cs.length = iirCoeffCount mode n) : clearHistories (configuredIir mode n cs) = configuredIir mode n cs := by
  unfold configuredIir
  split
  · rename_i hmode
    have horder : ((cs.drop (n + 1)).take n).length = n := by
      rw [iirCoeffCount, if_pos hmode] at hcs
      simp
      omega
    simp only [clearHistories, Iir.order, horder, List.map_nil]
  · simp only [clearHistories, Iir.order, List.length_nil, List.map_map]
    rfl

theorem iirRun_length (g : Iir) (xs : List Cpx) : (iirRun g xs).2.length = xs.length := by
  induction xs generalizing g with
  | nil => rfl
  | cons z zs ih => exact congrArg (· + 1) (ih (iirStep g z).1)

theorem readCpxs_writeCpxs {mem : Memory} (h : mem.wf = true) (d : Nat) (zs : List Cpx) :
    readCpxs (writeCpxs mem d zs) d zs.length = zs :=
  List.ext_getElem (by simp) fun k _ hk => by rw [readCpxs_getElem, rdC_writeCpxs h d zs hk]

theorem iirChecks_ok {u : Nib} {s : State} (hu : u.toNat < Config.iirUnits) (hcfg : (s.iirAt u.toNat).cfg = true) :
    ∀ c ∈ iirChecks u s, c.ok = true := by
  simp [iirChecks, hu, hcfg]

theorem iirCfg_completes {s : State} {u mode : Nib} {a n : Word} (hu : u.toNat < Config.iirUnits)
    (hmode : mode = 0#4 ∨ mode = 1#4) (hlo : 1 ≤ n.toNat) (hhi : n.toNat ≤ 16)
    (hregion : LegalReals a (iirCoeffCount mode n.toNat)) :
    exec (.iirCfg u mode a n) s = .next (complete (s.setIir u.toNat
      (configuredIir mode n.toNat (readReals s.dmem a.toNat (iirCoeffCount mode n.toNat))))) := by
  refine command_of_ok (List.forall_mem_append.mpr ⟨?_, realRegion_checks_ok hregion⟩)
  rcases hmode with rfl | rfl <;> simp [hu, hlo, hhi, Config.iirMaxOrder, Config.iirMaxSections]

theorem iirRun_completes {s : State} {u : Nib} {a d n : Word} (hu : u.toNat < Config.iirUnits)
    (hcfg : (s.iirAt u.toNat).cfg = true) (ha : LegalCpxs a n.toNat) (hd : LegalCpxs d n.toNat) :
    exec (.iirRun u a d n) s = .next (complete
      ((s.setIir u.toNat (iirRun (s.iirAt u.toNat) (readCpxs s.dmem a.toNat n.toNat)).1).setDmem
        (writeCpxs s.dmem d.toNat (iirRun (s.iirAt u.toNat) (readCpxs s.dmem a.toNat n.toNat)).2))) := by
  refine command_of_ok (List.forall_mem_append.mpr ⟨iirChecks_ok hu hcfg, regionChecks_ok ?_⟩)
  simpa using ⟨(cpxRegion_ok_iff a n.toNat).mpr ha, (cpxRegion_ok_iff d n.toNat).mpr hd⟩

/-- What IIR.CFG loads in the direct form (R372): `b`, then `a`. -/
theorem configuredIir_direct (mem : Memory) (a n : Nat) :
    configuredIir 0#4 n (readReals mem a (iirCoeffCount 0#4 n)) =
      ⟨true, .direct, readReals mem a (n + 1), readReals mem (a + 8 * (n + 1)) n, Hist.zero n, Hist.zero n, []⟩ := by
  have hcount : iirCoeffCount 0#4 n = n + 1 + n := by simp [iirCoeffCount]; omega
  rw [hcount, configuredIir, if_pos rfl, readReals_take _ _ (by omega), readReals_drop, readReals_take _ _ le_rfl]

/-- The coefficients IIR.CFG loads in the cascade form (R372), section by section. -/
theorem configuredIir_cascade_coefficients (mem : Memory) (a n : Nat) :
    (configuredIir 1#4 n (readReals mem a (iirCoeffCount 1#4 n))).sections.map
        (fun c => [c.b0, c.b1, c.b2, c.a1, c.a2]) =
      (List.range n).map fun k => readReals mem (a + 40 * k) 5 := by
  rw [configuredIir, if_neg (by decide), List.map_map]
  exact List.map_congr_left fun k hk => loadSection_coefficients mem a (List.mem_range.mp hk)

/-- Settles O52, command by command. -/
theorem iirCommands : Obligations.IirCommands := by
  unfold Obligations.IirCommands
  simp only [BitVec.ofNat_eq_ofNat]
  intro s u hwf hu
  refine ⟨fun mode a n hmode hlo hhi hregion => ?_, fun hcfg => ⟨fun a d n ha hd => ?_, ?_⟩⟩
  · obtain ⟨hunits, hdmem, hdone, hcount⟩ := complete_unitWrite s (.iir u.toNat
      (configuredIir mode n.toNat (readReals s.dmem a.toNat (iirCoeffCount mode n.toNat))))
    have hat := (hunits.iirAt u.toNat).trans (iirAt_setIir_same s _ _ hu)
    refine ⟨_, iirCfg_completes hu hmode hlo hhi hregion, ?_⟩
    rw [UnitWrite.apply] at *
    rw [hat]
    refine ⟨?_, ?_, ?_, clearHistories_configuredIir (by simp), onlyIir_of_units hunits, hdmem, hdone, hcount⟩
    · rcases hmode with rfl | rfl <;> rfl
    · rintro rfl
      rw [configuredIir_direct]
      exact ⟨rfl, rfl, rfl, rfl⟩
    · rintro rfl
      exact ⟨rfl, rfl, rfl, configuredIir_cascade_coefficients s.dmem a.toNat n.toNat⟩
  · have hrun := iirRun_completes hu hcfg ha hd
    have hlen : (iirRun (s.iirAt u.toNat) (readCpxs s.dmem a.toNat n.toNat)).2.length = n.toNat := by
      rw [iirRun_length, readCpxs_length]
    generalize iirRun (s.iirAt u.toNat) (readCpxs s.dmem a.toNat n.toNat) = r at *
    have hwrites := (WritesOnly.apply (.iir u.toNat r.1) s).setDmem (writeCpxs s.dmem d.toNat r.2)
    have hunits : SameUnits (s.setIir u.toNat r.1)
      (complete ((s.setIir u.toNat r.1).setDmem (writeCpxs s.dmem d.toNat r.2))) := { hwrites.units with }
    refine ⟨_, hrun, iirAt_setIir_same s _ _ hu, ?_, ?_, onlyIir_of_units hunits, hwrites.completed, rfl⟩
    · rw [← hlen]
      exact readCpxs_writeCpxs hwf d.toNat r.2
    · rw [← hlen]
      exact keptOutside_writeCpxs hwf d.toNat r.2 rfl
  · obtain ⟨hunits, hdmem, hdone, hcount⟩ :=
      complete_unitWrite s (.iir u.toNat (clearHistories (s.iirAt u.toNat)))
    exact ⟨_, command_of_ok (iirChecks_ok hu hcfg), iirAt_setIir_same s _ _ hu, onlyIir_of_units hunits, hdmem, hdone,
      hcount⟩

end Sys2Proof.Machine
end

section
/-! PROOFS. Streams given in two calls (spec/10_state.md R74), and the phase of a mixer (spec/48_nco.md R421). -/

namespace Sys2Proof.Machine

/-! ## Streams -/

theorem tdRun_append (taps : List F64) (l : DelayLine) (x y : List Cpx) :
    tdRun taps l (x ++ y) =
      ((tdRun taps (tdRun taps l x).1 y).1, (tdRun taps l x).2 ++ (tdRun taps (tdRun taps l x).1 y).2) := by
  induction x generalizing l with
  | nil => rfl
  | cons z zs ih => simp only [List.cons_append, tdRun, ih]

theorem iirRun_append (g : Iir) (x y : List Cpx) :
    iirRun g (x ++ y) = ((iirRun (iirRun g x).1 y).1, (iirRun g x).2 ++ (iirRun (iirRun g x).1 y).2) := by
  induction x generalizing g with
  | nil => rfl
  | cons z zs ih => simp only [List.cons_append, iirRun, ih]

theorem gzRun_append (g : Goertzel) (x y : List Cpx) :
    gzRun g (x ++ y) = ((gzRun (gzRun g x).1 y).1, (gzRun g x).2 ++ (gzRun (gzRun g x).1 y).2) := by
  induction x generalizing g with
  | nil => rfl
  | cons z zs ih => simp only [List.cons_append, gzRun, ih, List.append_assoc]

theorem mixRun_append (inc phase : F64) (x y : List Cpx) :
    mixRun inc phase (x ++ y) =
      ((mixRun inc (mixRun inc phase x).1 y).1, (mixRun inc phase x).2 ++ (mixRun inc (mixRun inc phase x).1 y).2) := by
  induction x generalizing phase with
  | nil => rfl
  | cons z zs ih => simp only [List.cons_append, mixRun, ih]

/-- Settles O60, engine by engine. -/
theorem streamsContinueAcrossCalls : Obligations.StreamsContinueAcrossCalls := by
  unfold Obligations.StreamsContinueAcrossCalls
  exact fun x y => ⟨fun l taps => ⟨tdRun_append taps l x y, tdRun_fst taps l x⟩, fun g => iirRun_append g x y,
    fun g => gzRun_append g x y, fun inc phase => mixRun_append inc phase x y⟩

/-! ## Order and rounding -/

theorem unitsOf_le_iff {x y : F64} : unitsOf x ≤ unitsOf y ↔ magBits x ≤ magBits y := by
  rw [unitsOf_eq_magUnits, unitsOf_eq_magUnits]
  exact magUnits_strictMono.le_iff_le

/-- The order of two values by their patterns is that of their exact values (R12). -/
theorem orderKey_le_iff (x y : F64) : orderKey x ≤ orderKey y ↔ intUnits x ≤ intUnits y := by
  have hxy := unitsOf_le_iff (x := x) (y := y)
  have hyx := unitsOf_le_iff (x := y) (y := x)
  have hx : unitsOf x = 0 ↔ magBits x = 0 := by
    rw [unitsOf_eq_magUnits, ← magUnits_zero]
    exact magUnits_strictMono.injective.eq_iff
  have hy : unitsOf y = 0 ↔ magBits y = 0 := by
    rw [unitsOf_eq_magUnits, ← magUnits_zero]
    exact magUnits_strictMono.injective.eq_iff
  unfold orderKey intUnits
  split <;> split <;> omega

theorem fle_iff (x y : F64) : fle x y = true ↔ isNaN x = false ∧ isNaN y = false ∧ intUnits x ≤ intUnits y := by
  simp [fle, orderKey_le_iff, and_assoc]

theorem flt_iff (x y : F64) : flt x y = true ↔ isNaN x = false ∧ isNaN y = false ∧ intUnits x < intUnits y := by
  have h : orderKey x < orderKey y ↔ intUnits x < intUnits y := by
    rw [← not_le, ← not_le, orderKey_le_iff]
  simp [flt, h, and_assoc]

theorem isFinite_iff_units {x : F64} : isFinite x = true ↔ unitsOf x < magUnits infBits := by
  rw [isFinite_iff, unitsOf_eq_magUnits]
  exact magUnits_strictMono.lt_iff_lt.symm

/-- A finite magnitude lies below half a place above the largest one. -/
theorem unitsOf_lt_overflowLimit {x : F64} (h : isFinite x = true) : unitsOf x < overflowLimit := by
  have hlimit := two_mul_overflowLimit
  have hpos : 0 < infBits := by decide
  have hmax : magUnits (magBits x) ≤ magUnits (infBits - 1) :=
    magUnits_strictMono.monotone (by have := isFinite_iff.mp h; omega)
  have hinf : magUnits (infBits - 1) < magUnits infBits := magUnits_strictMono (by omega)
  rw [unitsOf_eq_magUnits]
  omega

theorem natAbs_intUnits (x : F64) : (intUnits x).natAbs = unitsOf x := by rw [intUnits_eq_withSign, natAbs_withSign]

/-- Rounding does not pass a finite value: a number between two of them is rounded between them. -/
theorem Rounded.between {r lo hi : F64} {z : Int} (h : Rounded r z 1) (hlo : isFinite lo = true)
    (hhi : isFinite hi = true) (hle : intUnits lo ≤ z) (hge : z ≤ intUnits hi) :
    isFinite r = true ∧ intUnits lo ≤ intUnits r ∧ intUnits r ≤ intUnits hi := by
  have hlo' := unitsOf_lt_overflowLimit hlo
  have hhi' := unitsOf_lt_overflowLimit hhi
  rw [← natAbs_intUnits] at hlo' hhi'
  obtain ⟨hfin, hnear⟩ := h.finite (by omega)
  obtain ⟨hnearLo, -⟩ := hnear lo hlo
  obtain ⟨hnearHi, -⟩ := hnear hi hhi
  rw [Nat.cast_one, mul_one, mul_one] at hnearLo hnearHi
  exact ⟨hfin, by omega, by omega⟩

/-! ## The phase of a mixer (R72, R421) -/

/-- `2 * TWO_PI`, which is exact. -/
def fourPi : F64 := 0x402921FB54442D18#64

theorem intUnits_fourPi : intUnits fourPi = 2 * intUnits Config.twoPi := by decide +kernel

@[simp] theorem intUnits_fZero : intUnits fZero = 0 := by decide

theorem isFinite_twoPi : isFinite Config.twoPi = true := by decide
theorem isFinite_fourPi : isFinite fourPi = true := by decide
theorem isFinite_fZero : isFinite fZero = true := by decide

/-- The value is no NaN and at most `TWO_PI` in magnitude. -/
def WithinTurn (x : F64) : Prop :=
  isFinite x = true ∧ -intUnits Config.twoPi ≤ intUnits x ∧ intUnits x ≤ intUnits Config.twoPi

theorem withinTurn_iff (x : F64) :
    WithinTurn x ↔ fle (fneg Config.twoPi) x = true ∧ fle x Config.twoPi = true := by
  have hnan : isNaN (fneg Config.twoPi) = false := by decide
  rw [fle_iff, fle_iff, intUnits_fneg]
  constructor
  · rintro ⟨hfin, hlo, hhi⟩
    exact ⟨⟨hnan, isNaN_of_isFinite hfin, hlo⟩, isNaN_of_isFinite hfin, isNaN_of_isFinite isFinite_twoPi, hhi⟩
  · rintro ⟨⟨-, -, hlo⟩, -, -, hhi⟩
    have hinf := isFinite_iff_units.mp isFinite_twoPi
    rw [← natAbs_intUnits] at hinf
    refine ⟨isFinite_iff_units.mpr ?_, hlo, hhi⟩
    rw [← natAbs_intUnits]
    omega

/-- The value lies in `[0, TWO_PI]`. -/
def IsPhase (x : F64) : Prop := fle fZero x = true ∧ fle x Config.twoPi = true

theorem isPhase_iff (x : F64) :
    IsPhase x ↔ isFinite x = true ∧ 0 ≤ intUnits x ∧ intUnits x ≤ intUnits Config.twoPi := by
  have hpos : (0 : Int) ≤ intUnits Config.twoPi := by decide +kernel
  have hzero : isNaN fZero = false := by decide
  have hturn := withinTurn_iff x
  rw [IsPhase]
  constructor
  · rintro ⟨hlo, hhi⟩
    obtain ⟨-, hnan, hge⟩ := (fle_iff _ _).mp hlo
    rw [intUnits_fZero] at hge
    have hlo' : fle (fneg Config.twoPi) x = true :=
      (fle_iff _ _).mpr ⟨by decide, hnan, by rw [intUnits_fneg]; omega⟩
    obtain ⟨hfin, -, hle⟩ := hturn.mpr ⟨hlo', hhi⟩
    exact ⟨hfin, hge, hle⟩
  · rintro ⟨hfin, hge, hle⟩
    have hnan := isNaN_of_isFinite hfin
    exact ⟨(fle_iff _ _).mpr ⟨hzero, hnan, by rwa [intUnits_fZero]⟩, (hturn.mp ⟨hfin, by omega, hle⟩).2⟩

/-- One sample keeps the phase in a turn: the advanced phase is between `-TWO_PI` and `2 * TWO_PI`, and each way of
wrapping it brings the exact result, and so the rounded one, back (R421). -/
theorem advancePhase_isPhase {phase inc : F64} (hphase : IsPhase phase) (hinc : WithinTurn inc) :
    IsPhase (advancePhase phase inc) := by
  obtain ⟨hfin, hge, hle⟩ := (isPhase_iff phase).mp hphase
  obtain ⟨hinc', hlo, hhi⟩ := hinc
  have hfour := intUnits_fourPi
  have hneg : isFinite (fneg Config.twoPi) = true := by rw [isFinite_fneg, isFinite_twoPi]
  obtain ⟨hpfin, hplo, hphi⟩ := (fadd_rounded hfin hinc').between hneg isFinite_fourPi
    (by rw [intUnits_fneg]; omega) (by omega)
  rw [intUnits_fneg] at hplo
  have hpnan := isNaN_of_isFinite hpfin
  unfold advancePhase
  generalize fadd phase inc = p at *
  dsimp only
  split
  · rename_i hbeyond
    obtain ⟨-, -, hbeyond⟩ := (fle_iff _ _).mp hbeyond
    obtain ⟨hr, hr0, hr1⟩ := (fsub_rounded hpfin isFinite_twoPi).between isFinite_fZero isFinite_twoPi
      (by rw [intUnits_fZero]; omega) (by omega)
    exact (isPhase_iff _).mpr ⟨hr, by rwa [intUnits_fZero] at hr0, hr1⟩
  · rename_i hbeyond
    split
    · rename_i hbelow
      obtain ⟨-, -, hbelow⟩ := (flt_iff _ _).mp hbelow
      rw [intUnits_fZero] at hbelow
      obtain ⟨hr, hr0, hr1⟩ := (fadd_rounded hpfin isFinite_twoPi).between isFinite_fZero isFinite_twoPi
        (by rw [intUnits_fZero]; omega) (by omega)
      exact (isPhase_iff _).mpr ⟨hr, by rwa [intUnits_fZero] at hr0, hr1⟩
    · rename_i hbelow
      have hle' : ¬ intUnits Config.twoPi ≤ intUnits p := fun h =>
        hbeyond ((fle_iff _ _).mpr ⟨isNaN_of_isFinite isFinite_twoPi, hpnan, h⟩)
      have hge' : ¬ intUnits p < 0 := fun h =>
        hbelow ((flt_iff _ _).mpr ⟨hpnan, isNaN_of_isFinite isFinite_fZero, by rwa [intUnits_fZero]⟩)
      exact (isPhase_iff _).mpr ⟨hpfin, by omega, by omega⟩

theorem mixRun_isPhase {phase inc : F64} (hphase : IsPhase phase) (hinc : WithinTurn inc) (xs : List Cpx) :
    IsPhase (mixRun inc phase xs).1 := by
  induction xs generalizing phase with
  | nil => exact hphase
  | cons z zs ih => exact ih (advancePhase_isPhase hphase hinc)

/-- Settles O59: one sample, then any run by induction. -/
theorem ncoPhaseStaysInRange : Obligations.NcoPhaseStaysInRange := by
  unfold Obligations.NcoPhaseStaysInRange
  intro inc phase hlo hhi hge hle
  have hinc := (withinTurn_iff inc).mpr ⟨hlo, hhi⟩
  exact ⟨advancePhase_isPhase ⟨hge, hle⟩ hinc, fun xs => mixRun_isPhase ⟨hge, hle⟩ hinc xs⟩

end Sys2Proof.Machine
end

section
/-! PROOFS. The host's registers and moves: what reset leaves (spec/70_reset_and_hazards.md R500-R502), what each register
reads and what a write to it does (spec/10_state.md R46-R61), the latches of CTRL (spec/60_exceptions.md R450, R483) and
the accesses to DMEM (R480, R481). -/

namespace Sys2Proof.Machine

/-! ## Control-register accesses -/

theorem hostMove_writeCsr {o : BitVec 8} (ho : o.toNat % 4 = 0) (s : State) (v : Word) :
    hostMove (.writeCsr o 4 v) s = .next (writeCsr s o v) := by
  simp [hostMove, csrAccessOk, ho]

theorem hostMove_readCsr {o : BitVec 8} (ho : o.toNat % 4 = 0) (s : State) :
    hostMove (.readCsr o 4) s = .next { s with response := .word (readCsr s o) } := by
  simp [hostMove, csrAccessOk, ho]

theorem csrAccessOk_eq_false {o : BitVec 8} {w : Nat} (h : w ≠ 4 ∨ o.toNat % 4 ≠ 0) : csrAccessOk o w = false := by
  simp only [csrAccessOk, Bool.and_eq_false_iff, beq_eq_false_iff_ne]
  exact h

theorem hostMove_writeCtrl (s : State) (v : Word) : hostMove (.writeCsr 0x10 4 v) s = .next (writeCtrl s v) :=
  hostMove_writeCsr rfl s v

/-- The registers a host can write (R46). -/
def writableRegisters : List (BitVec 8) := [0x10#8, 0x14#8, 0x18#8, 0x1C#8, 0x30#8, 0x34#8]

/-- Every other register ignores a write (R47, R49). -/
theorem writeCsr_of_notWritable {o : BitVec 8} (ho : o ∉ writableRegisters) (s : State) (v : Word) :
    writeCsr s o v = s := by
  simp only [writableRegisters, List.mem_cons, List.not_mem_nil, or_false, not_or] at ho
  obtain ⟨h10, h14, h18, h1C, h30, h34⟩ := ho
  unfold writeCsr
  split
  · exact absurd (BitVec.eq_of_toNat_eq ‹_›) h10
  · exact absurd (BitVec.eq_of_toNat_eq ‹_›) h14
  · exact absurd (BitVec.eq_of_toNat_eq ‹_›) h18
  · exact absurd (BitVec.eq_of_toNat_eq ‹_›) h1C
  · exact absurd (BitVec.eq_of_toNat_eq ‹_›) h30
  · exact absurd (BitVec.eq_of_toNat_eq ‹_›) h34
  · rfl

/-- A reserved offset reads 0 (R49). -/
theorem readCsr_of_reserved {o : BitVec 8} (ho : 0x40 ≤ o.toNat) (s : State) : readCsr s o = 0#32 := by
  unfold readCsr
  split
  any_goals omega
  rfl

/-! ## Four bits in a register -/

theorem toNat_bitsWord (b3 b2 b1 b0 : Bool) :
    (bitsWord b3 b2 b1 b0).toNat = b0.toNat + 2 * b1.toNat + 4 * b2.toNat + 8 * b3.toNat := by
  revert b3 b2 b1 b0
  decide

theorem getLsbD_bitsWord (b3 b2 b1 b0 : Bool) (k : Nat) :
    (bitsWord b3 b2 b1 b0).getLsbD k = ([b0, b1, b2, b3][k]?).getD false := by
  match k with
  | 0 | 1 | 2 | 3 => revert b3 b2 b1 b0; decide
  | k + 4 =>
    have hlow : (bitsWord b3 b2 b1 b0).toNat < 2 ^ 4 := by
      rw [toNat_bitsWord]
      have h0 := Bool.toNat_le b0
      have h1 := Bool.toNat_le b1
      have h2 := Bool.toNat_le b2
      have h3 := Bool.toNat_le b3
      omega
    exact Nat.testBit_lt_two_pow (hlow.trans_le (Nat.pow_le_pow_right Nat.two_pos (Nat.le_add_left 4 k)))

theorem bitsWord_and (b3 b2 b1 b0 : Bool) (w : Word) :
    bitsWord b3 b2 b1 b0 &&& w =
      bitsWord (b3 && w.getLsbD 3) (b2 && w.getLsbD 2) (b1 && w.getLsbD 1) (b0 && w.getLsbD 0) := by
  refine BitVec.eq_of_getLsbD_eq fun k _ => ?_
  rw [BitVec.getLsbD_and, getLsbD_bitsWord, getLsbD_bitsWord]
  match k with
  | 0 | 1 | 2 | 3 => rfl
  | k + 4 => rfl

theorem bitsWord_eq_zero_iff (b3 b2 b1 b0 : Bool) :
    bitsWord b3 b2 b1 b0 = 0#32 ↔ b3 = false ∧ b2 = false ∧ b1 = false ∧ b0 = false := by
  revert b3 b2 b1 b0
  decide

/-- R59: IRQ_EN stores bits 3:0. -/
theorem irqWord_irqOfWord (v : Word) : irqWord (irqOfWord v) = v &&& 0xF#32 := by
  have hmask : 0xF#32 = bitsWord true true true true := rfl
  rw [hmask, BitVec.and_comm, bitsWord_and]
  simp only [Bool.true_and]
  rfl

/-- R51: FAULT, DONE and ABORTED are write-1-to-clear, BUSY is read-only. -/
theorem statusWord_clearStatus (st : Status) (v : Word) :
    statusWord (clearStatus st v) = statusWord st &&& ~~~(v &&& 0xE#32) := by
  have hmask : 0xE#32 = bitsWord true true true false := rfl
  have hmask' : ∀ k : Nat, k < 32 → (~~~(v &&& 0xE#32)).getLsbD k =
      !(v.getLsbD k && ([false, true, true, true][k]?).getD false) := by
    intro k hk
    rw [BitVec.getLsbD_not, BitVec.getLsbD_and, hmask, getLsbD_bitsWord, decide_eq_true hk, Bool.true_and]
  rw [statusWord, statusWord, bitsWord_and, hmask' 3 (by omega), hmask' 2 (by omega), hmask' 1 (by omega),
    hmask' 0 (by omega)]
  simp [clearStatus]

/-- R60: every pending bit is write-1-to-clear. -/
theorem irqWord_clearPending (q : IrqBits) (v : Word) : irqWord (clearPending q v) = irqWord q &&& ~~~v := by
  rw [irqWord, irqWord, bitsWord_and]
  simp [clearPending]

/-- R470: the line is the masked pending register. -/
theorem irqLine_eq (s : State) :
    irqLine s = decide ((irqWord s.irqPend &&& irqWord s.irqEn) &&& 0xF#32 ≠ 0#32) := by
  have hmask : 0xF#32 = bitsWord true true true true := rfl
  rw [Bool.eq_iff_iff, decide_eq_true_iff, irqWord, irqWord, hmask, bitsWord_and, bitsWord_and, ne_eq,
    bitsWord_eq_zero_iff]
  simp only [getLsbD_bitsWord, irqLine]
  generalize s.irqPend = q
  generalize s.irqEn = en
  obtain ⟨d, f, g, a⟩ := q
  obtain ⟨d', f', g', a'⟩ := en
  revert d f g a d' f' g' a'
  decide

/-! ## Reset (R75, R500-R502) -/

/-- Settles O20. -/
theorem resetLeavesTheStatedValues : Obligations.ResetLeavesTheStatedValues := by
  unfold Obligations.ResetLeavesTheStatedValues
  refine ⟨by decide, fun j => ?_, fun s cells => ⟨_, rfl, rfl⟩, fun s v hidle hsreset => ?_⟩
  · simp only [State.dlAt, State.hbAt, State.chAt, State.firAt, State.iirAt, State.gzAt, State.ncoAt, State.reset,
      getD_replicate]
    exact ⟨rfl, rfl, rfl, rfl, rfl, rfl, rfl⟩
  · rw [hostMove_writeCtrl, writeCtrl, if_pos hsreset, hidle]
    rfl

/-! ## CTRL and the boundary (R450, R458, R483) -/

section
variable {s : State} {v : Word}

theorem writeCtrl_sreset_busy (hbusy : s.status.busy = true) (hsreset : v.getLsbD 2 = true) :
    writeCtrl s v = { s with sresetReq := true } := by
  rw [writeCtrl, if_pos hsreset, if_pos hbusy]

theorem writeCtrl_abort (hsreset : v.getLsbD 2 = false) (habort : v.getLsbD 1 = true) :
    writeCtrl s v = if s.status.busy then { s with abortReq := true } else s := by
  simp only [writeCtrl, hsreset, habort, Bool.false_eq_true, if_false, if_true]

theorem writeCtrl_noAction (hsreset : v.getLsbD 2 = false) (habort : v.getLsbD 1 = false)
    (hstart : v.getLsbD 0 = false) : writeCtrl s v = s := by
  simp only [writeCtrl, hsreset, habort, hstart, Bool.false_eq_true, if_false]

theorem step_of_noInputs (h : s.inputs = []) : step s = (sequencerAction s).outcome := by
  rw [step_eq_outcome, nextAction, h]

end

/-- Settles O9: the writes of CTRL, then the three boundaries before a fetch. -/
theorem latchesActAtTheBoundary : Obligations.LatchesActAtTheBoundary := by
  unfold Obligations.LatchesActAtTheBoundary
  simp only [hostMove_writeCtrl]
  refine ⟨fun s v hbusy => ⟨fun hsreset => ?_, fun hsreset habort => ?_⟩, fun s v hidle hsreset habort => ?_,
    fun s v hsreset habort hstart => ?_, fun s hinputs => ?_⟩
  · rw [writeCtrl_sreset_busy hbusy hsreset]
  · rw [writeCtrl_abort hsreset habort, if_pos hbusy]
  · rw [writeCtrl_abort hsreset habort, hidle]
    rfl
  · rw [writeCtrl_noAction hsreset habort hstart]
  · rw [step_of_noInputs hinputs]
    refine ⟨fun hidle => ?_, fun hbusy hsreset => ?_, fun hbusy hsreset habort => ?_⟩
    · simp [sequencerAction, hidle, Action.outcome]
    · simp [sequencerAction, hbusy, hsreset, Action.outcome, softReset, hinputs, State.reset]
    · simp [sequencerAction, hbusy, hsreset, habort, Action.outcome, abortRun]

/-! ## Reading and writing the registers (R46-R61) -/

theorem retired_eq_words (x : BitVec 64) :
    x.toNat = (x.extractLsb' 32 32).toNat * 2 ^ 32 + (x.extractLsb' 0 32).toNat := by
  have hlt := x.isLt
  simp only [BitVec.extractLsb'_toNat, Nat.shiftRight_eq_div_pow]
  omega

theorem causeWord_values : ∀ p ∈ [(Cause.none, 0#32), (.fetchMisaligned, 1#32), (.fetchRange, 2#32),
    (.illegalOpcode, 3#32), (.reservedNonzero, 4#32), (.badUnit, 5#32), (.operandMisaligned, 6#32),
    (.operandRange, 7#32), (.badField, 8#32), (.unconfigured, 9#32)], causeWord p.1 = p.2 := by
  decide

/-- Settles O21. -/
theorem hostRegisterReads : Obligations.HostRegisterReads := by
  unfold Obligations.HostRegisterReads
  intro s
  refine ⟨⟨rfl, ?_, ?_, ?_, rfl, retired_eq_words s.retired⟩, fun o v hlo _ => ?_, fun v => ⟨rfl, rfl⟩,
    fun o ho => hostMove_readCsr ho s, irqLine_eq s, rfl⟩
  · exact toNat_bitsWord _ _ _ _
  · simp only [List.forall_mem_cons, List.not_mem_nil, false_implies, implies_true, and_true]
    exact ⟨toNat_bitsWord _ _ _ _, toNat_bitsWord _ _ _ _⟩
  · intro p hp hcause
    rw [← causeWord_values p hp, ← hcause]
    rfl
  · refine ⟨readCsr_of_reserved hlo s, writeCsr_of_notWritable (fun hmem => ?_) s v⟩
    revert o
    decide

/-- Settles O22. -/
theorem hostRegisterWrites : Obligations.HostRegisterWrites := by
  unfold Obligations.HostRegisterWrites
  intro s v
  refine ⟨hostMove_writeCsr rfl s v, hostMove_writeCsr rfl s v, ⟨_, hostMove_writeCsr rfl s v, irqWord_irqOfWord v⟩,
    ⟨_, hostMove_writeCsr rfl s v, statusWord_clearStatus s.status v⟩,
    ⟨_, hostMove_writeCsr rfl s v, irqWord_clearPending s.irqPend v⟩, fun o ho => ?_⟩
  have hignored := writeCsr_of_notWritable ho s v
  exact ⟨hignored, fun haligned => by rw [hostMove_writeCsr haligned, hignored]⟩

/-! ## DMEM accesses (R480, R481) -/

/-- The bytes a host has stored, read back. -/
theorem readBytes_writeBytes {m : Memory} (h : m.wf = true) (a : Nat) (bs : List Byte) :
    readBytes (writeBytes m a bs) a bs.length = bs :=
  List.ext_getElem (by simp [readBytes]) fun k _ hk => by
    simp only [readBytes, List.getElem_map, List.getElem_range]
    exact readByte_writeBytes_inside h hk

section
variable {s : State} {a : Nat}

theorem hostMove_writeDmem (hidle : s.status.busy = false) {bs : List Byte} (h : a + bs.length ≤ Config.dmemBytes) :
    hostMove (.writeDmem a bs) s = .next (s.setDmem (writeBytes s.dmem a bs)) := by
  simp [hostMove, hidle, dmemRangeOk, h]

theorem hostMove_readDmem (hidle : s.status.busy = false) {n : Nat} (h : a + n ≤ Config.dmemBytes) :
    hostMove (.readDmem a n) s = .next { s with response := .bytes (readBytes s.dmem a n) } := by
  simp [hostMove, hidle, dmemRangeOk, h]

theorem hostMove_readDmem_outside (hidle : s.status.busy = false) {n : Nat} (h : Config.dmemBytes < a + n) :
    hostMove (.readDmem a n) s = .fault .hostOutsideDmem := by
  simp [hostMove, hidle, dmemRangeOk, h]

end

/-- Settles O23. -/
theorem hostMemoryMoves : Obligations.HostMemoryMoves := by
  unfold Obligations.HostMemoryMoves
  refine ⟨fun s a bs hwf hidle hrange => ⟨_, hostMove_writeDmem hidle hrange, ?_, rfl, ?_⟩,
    fun s a n bs hbusy => ?_, fun s a n hidle hout => hostMove_readDmem_outside hidle hout, fun s o w v hshape => ?_⟩
  · exact fun x hx => readByte_writeBytes_outside hwf hx
  · rw [hostMove_readDmem (by exact hidle) hrange, setDmem_dmem, readBytes_writeBytes hwf]
  · simp [hostMove, hbusy]
  · simp [hostMove, csrAccessOk_eq_false hshape]

end Sys2Proof.Machine
end

section
/-! PROOFS. How many samples, taps and records a command stores (spec/43_halfband_cic3.md R287,
spec/44_decimator_chain.md R316, spec/47_goertzel.md R396): the counts its regions are checked with. -/

namespace Sys2Proof.Machine

/-! ## Passes, stages and chains (R282-R287, R316) -/

theorem outputIndices_length {ph : Nat} (hph : ph < 2) (n : Nat) : (outputIndices ph n).length = (n + 1 - ph) / 2 := by
  induction n with
  | zero => exact (Nat.div_eq_of_lt (by omega)).symm
  | succ n ih =>
    simp only [outputIndices, List.range_succ, List.filter_append, List.length_append] at ih ⊢
    rw [ih]
    by_cases hout : (ph + n) % 2 = 0
    · simp [hout]
      omega
    · simp [hout]
      omega

theorem firOutputs_length (h : List F64) (st : PassState) (x : List Cpx) :
    (firOutputs h st x).length = (x.length + 1 - st.ph.val) / 2 := by
  simp only [firOutputs]
  split <;> rw [List.length_map, outputIndices_length st.ph.isLt]

/-- A sample completes a pair, or waits for the next one (R285). -/
theorem cicpass_length (st : PassState) (x : List Cpx) :
    (cicpass st x).2.length = (x.length + if st.hasPend then 1 else 0) / 2 := by
  induction x generalizing st with
  | nil => cases h : st.hasPend <;> simp [cicpass]
  | cons z zs ih =>
    simp only [cicpass, List.length_append, ih]
    cases hpend : st.hasPend with
    | false => simp [cicStep, hpend]
    | true =>
      simp [cicStep, hpend]
      omega

/-- R287: the outputs of a pass. -/
theorem runPass_length (form : PassForm) (taps : List F64) (st : PassState) (x : List Cpx) :
    (runPass form taps st x).2.length = passCount form st x.length := by
  cases form with
  | cic3 => exact cicpass_length st x
  | fir => exact firOutputs_length taps st x

/-- R287: the outputs of a stage. -/
theorem stageApply_length (form : PassForm) (taps : List F64) (decim : Decim) (p0 p1 : PassState) (x : List Cpx) :
    (stageApply form taps decim p0 p1 x).2.2.length = stageCount form decim p0 p1 x.length := by
  cases decim with
  | two => exact runPass_length form taps p0 x
  | four => simp only [stageApply, stageCount, runPass_length]

theorem Halfband.apply_length (h : Halfband) (x : List Cpx) : (h.apply x).2.length = h.count x.length :=
  stageApply_length h.form h.coeff h.decim h.pass0 h.pass1 x

theorem Stage.apply_length (g : Stage) (x : List Cpx) : (g.apply x).2.length = g.count x.length :=
  stageApply_length _ _ g.decim g.pass0 g.pass1 x

/-- R316: the outputs of a chain. -/
theorem runStages_length (gs : List Stage) (x : List Cpx) : (runStages gs x).2.length = chainCount gs x.length := by
  induction gs generalizing x with
  | nil => rfl
  | cons g gs ih =>
    simp only [runStages, chainCount, List.foldl_cons, ih, g.apply_length]

/-! ## Filters and mixers (R351, R352, R424) -/

theorem tdRun_length (taps : List F64) (l : DelayLine) (x : List Cpx) : (tdRun taps l x).2.length = x.length := by
  induction x generalizing l with
  | nil => rfl
  | cons z zs ih => simp [tdRun, ih]

theorem mixRun_length (inc phase : F64) (x : List Cpx) : (mixRun inc phase x).2.length = x.length := by
  induction x generalizing phase with
  | nil => rfl
  | cons z zs ih => simp [mixRun, ih]

/-! ## Taps (R340-R347) -/

theorem normalizeTaps_length (h : List F64) : (normalizeTaps h).length = h.length := by
  simp only [normalizeTaps]
  split <;> simp

theorem genLP_length (n : Nat) (fc : F64) (mode : Nib) : (genLP n fc mode).length = n := by
  simp [genLP, normalizeTaps_length]

theorem invertTaps_length (h : List F64) : (invertTaps h).length = h.length := by simp [invertTaps]

theorem reverseTaps_length (h : List F64) : (reverseTaps h).length = h.length := by simp [reverseTaps]

theorem bandstopTaps_length (mode : Nib) (n : Nat) (lo hi : F64) : (bandstopTaps mode n lo hi).length = n := by
  simp [bandstopTaps, genLP_length, invertTaps_length]

/-! ## Detectors (R396) -/

/-- A sample completes a bin, whose record it makes, or is counted (R396). -/
theorem gzStep_cases (g : Goertzel) (z : Cpx) :
    (gzStep g z).1.nbin = g.nbin ∧
      ((g.cnt + 1 = g.nbin ∧ (gzStep g z).1.cnt = 0 ∧ (gzStep g z).2.toList.length = 1) ∨
        ((gzStep g z).1.cnt = g.cnt + 1 ∧ (gzStep g z).2.toList.length = 0)) := by
  have hkeeps := gzAccumulate_keeps g (gzSelect g.insel z)
  unfold gzStep
  generalize gzAccumulate g (gzSelect g.insel z) = g' at *
  rw [← hkeeps.nbin, ← hkeeps.cnt]
  dsimp only
  split
  · rename_i hend
    have hbin := gzBinEnd_keeps { g' with cnt := g'.cnt + 1 }
    exact ⟨hbin.nbin, .inl ⟨hend, hbin.cnt, rfl⟩⟩
  · exact ⟨rfl, .inr ⟨rfl, rfl⟩⟩

/-- R396: a call makes no more records than the bins it can complete. Of a detector outside its ranges (`cnt` at `nbin`
or above) that is only a bound. -/
theorem gzRun_length_le (g : Goertzel) (x : List Cpx) : (gzRun g x).2.length ≤ (g.cnt + x.length) / g.nbin := by
  induction x generalizing g with
  | nil => exact Nat.zero_le _
  | cons z zs ih =>
    have hrest := ih (gzStep g z).1
    obtain ⟨hnbin, ⟨hend, hcnt, hone⟩ | ⟨hcnt, hnone⟩⟩ := gzStep_cases g z
    · rw [hnbin, hcnt] at hrest
      have hcount : g.cnt + (zs.length + 1) = 0 + zs.length + g.nbin := by omega
      rw [gzRun, List.length_append, List.length_cons, hone, hcount, Nat.add_div_right _ (by omega)]
      omega
    · rw [hnbin, hcnt] at hrest
      rw [gzRun, List.length_append, List.length_cons, hnone, Nat.zero_add, ← Nat.add_assoc, Nat.add_right_comm]
      exact hrest

end Sys2Proof.Machine
end

section
/-! PROOFS. The one form of every command: the checks of its units, configuration and fields, then those of its regions
in the order A, B, D, then an effect that stores in one of the regions or leaves DMEM alone (spec/20_memory.md R103, R104,
spec/30_encoding.md R144, spec/60_exceptions.md R456). -/

namespace Sys2Proof.Machine

/-! ## Storing in a region (R104, R107) -/

/-- `m'` has what storing in `r` keeps of `m`: the canonical form, and the bounds of DMEM where `r` lies in them. -/
structure Region.Stores (r : Region) (m m' : Memory) : Prop where
  wf : m.wf = true → m'.wf = true
  inDmem : r.inRange = true → m.inDmem = true → m'.inDmem = true

/-- Elements that stand in a region in range, no more than it counts, end inside DMEM. -/
theorem Region.fits {r : Region} (h : r.inRange = true) {k : Nat} (hk : k ≤ r.count) :
    k = 0 ∨ r.addr.toNat + r.esize * k ≤ Config.dmemBytes := by
  simp only [Region.inRange, Bool.or_eq_true, beq_iff_eq, decide_eq_true_eq] at h
  rcases h with hzero | hend
  · exact .inl (by omega)
  · rw [Nat.mul_comm] at hend
    exact .inr ((Nat.add_le_add_left (Nat.mul_le_mul_left _ hk) _).trans hend)

section
variable (m : Memory) (d : Word)

theorem stores_writeCpxs {n : Nat} {zs : List Cpx} (h : zs.length = n) :
    (cpxRegion d n).Stores m (writeCpxs m d.toNat zs) where
  wf hm := wf_writeCpxs hm _ _
  inDmem hr hm := inDmem_writeCpxs hm ((Region.fits hr h.le).imp_left List.eq_nil_of_length_eq_zero)

theorem stores_writeReals {n : Nat} {xs : List F64} (h : xs.length = n) :
    (realRegion d n).Stores m (writeReals m d.toNat xs) where
  wf hm := wf_writeReals hm _ _
  inDmem hr hm := inDmem_writeReals hm ((Region.fits hr h.le).imp_left List.eq_nil_of_length_eq_zero)

theorem stores_wrC (z : Cpx) : (cpxRegion d 1).Stores m (wrC m d.toNat z) where
  wf hm := wf_wrC hm _ _
  inDmem hr hm := inDmem_wrC hm z ((Region.fits hr le_rfl).resolve_left one_ne_zero)

theorem stores_wrR (x : F64) : (realRegion d 1).Stores m (wrR m d.toNat x) where
  wf hm := wf_wrR hm _ _
  inDmem hr hm := inDmem_wrR hm x ((Region.fits hr le_rfl).resolve_left one_ne_zero)

theorem stores_writeReport (c : Chain) : (rec16Region d 1).Stores m (writeReport m d.toNat c) where
  wf hm := wf_wrRecord16 hm _ _ _ _
  inDmem hr hm := inDmem_wrRecord16 hm _ _ _ ((Region.fits hr le_rfl).resolve_left one_ne_zero)

theorem stores_writeStageRecords (gs : List Stage) :
    (rec16Region d gs.length).Stores m (writeStageRecords m d.toNat gs) where
  wf hm := wf_writeStageRecords hm _ _
  inDmem hr hm := inDmem_writeStageRecords hm ((Region.fits hr le_rfl).imp_left List.eq_nil_of_length_eq_zero)

theorem stores_writeGzRecords {n : Nat} {rs : List GzRecord} (h : rs.length ≤ n) :
    (rec32Region d n).Stores m (writeGzRecords m d.toNat rs) where
  wf hm := wf_writeGzRecords hm _ _
  inDmem hr hm := inDmem_writeGzRecords hm ((Region.fits hr h).imp_left List.eq_nil_of_length_eq_zero)

end

/-! ## Checks before the regions (R451, R455) -/

/-- What R456 puts before the regions: the instances a command names exist and are configured, and its fields are in
range. -/
structure OperandsReady (s : State) (i : Instr) : Prop where
  unit : ∀ u count, unitOperand i = some (u, count) → u.toNat < count
  configured : ∀ b info, configOperand s i = some (b, info) → b = true
  line : lineReady s i
  fields : ∀ c ∈ fieldRanges s i, c.2 = true

theorem badFieldOf_eq_none_iff {s : State} {i : Instr} : badFieldOf s i = none ↔ ∀ c ∈ fieldRanges s i, c.2 = true := by
  simp [badFieldOf]

/-- FIR.RUN with its instances configured and its block of the engine's size passes its checks (R351). -/
theorem firRunChecks_ok {s : State} {u : Nib} {a d n : Word} (h : OperandsReady s (.firRun u a d n)) :
    ∀ c ∈ firRunChecks u.toNat n.toNat u s, c.ok = true := by
  have hunit := h.unit u _ rfl
  have hcfg := h.configured _ _ rfl
  have hfield := h.fields (_, _) (List.mem_singleton_self _)
  have hline : (s.firAt u.toNat).mode = .fd ∨ (s.dlAt (s.firAt u.toNat).dl).cfg = true := by
    cases hmode : (s.firAt u.toNat).mode with
    | td => exact .inr (h.line hmode)
    | fd => exact .inl rfl
  simpa [firRunChecks] using ⟨hunit, hcfg, hline, by simpa using hfield⟩

/-- The range of each field of FIR.CFG, mode by mode (R350). -/
theorem OperandsReady.firCfg_fields {s : State} {u mode : Nib} {a n m : Word}
    (h : OperandsReady s (.firCfg u mode a n m)) :
    mode.toNat ≤ 1 ∧ (1 ≤ n.toNat ∧ n.toNat ≤ Config.firMaxTaps) ∧ (mode ≠ 0#4 ∨ m.toNat < Config.dlUnits) ∧
      (mode ≠ 1#4 ∨ 1 ≤ m.toNat ∧ m.toNat ≤ Config.firMaxBlock ∧ n.toNat ≤ m.toNat + 1) := by
  have hfields := h.fields
  by_cases hmode : mode = 0#4
  · subst hmode
    simpa [fieldRanges] using hfields
  · obtain ⟨hle, hn, hm⟩ := by simpa [fieldRanges, hmode, and_assoc] using hfields
    exact ⟨hle, ⟨hn, hm.1⟩, .inl hmode, .inr hm.2⟩

/-- The range of each field of IIR.CFG, mode by mode (R372). -/
theorem OperandsReady.iirCfg_fields {s : State} {u mode : Nib} {a n : Word}
    (h : OperandsReady s (.iirCfg u mode a n)) :
    mode.toNat ≤ 1 ∧ (mode ≠ 0#4 ∨ 1 ≤ n.toNat ∧ n.toNat ≤ Config.iirMaxOrder) ∧
      (mode ≠ 1#4 ∨ 1 ≤ n.toNat ∧ n.toNat ≤ Config.iirMaxSections) := by
  have hfields := h.fields
  by_cases hmode : mode = 0#4
  · subst hmode
    simpa [fieldRanges] using hfields
  · obtain ⟨hle, hn⟩ := by simpa [fieldRanges, hmode] using hfields
    exact ⟨hle, .inl hmode, .inr hn⟩

/-- The range of each field of GZ.CFG, mode by mode (R395). -/
theorem OperandsReady.gzCfg_fields {s : State} {u mode : Nib} {n m p : Word} {k0 k1 k2 : F64}
    (h : OperandsReady s (.gzCfg u mode n m p k0 k1 k2)) :
    mode.toNat ≤ 2 ∧ n.toNat ≠ 0 ∧ p.toNat ≤ 2 ∧ isFinite k0 = true ∧ (isFinite k1 = true ∧ flt fZero k1 = true) ∧
      (mode ≠ 1#4 ∨ isFinite k2 = true ∧ fle fZero k2 = true) ∧
        (mode ≠ 2#4 ∨ fle fZero k2 = true ∧ fle k2 fOne = true) := by
  have hfields := h.fields
  by_cases hmode : mode = 1#4
  · subst hmode
    simpa [fieldRanges, BitVec.toNat_eq (x := n)] using hfields
  · simpa [fieldRanges, BitVec.toNat_eq (x := n), hmode] using hfields

theorem oddTapCount_eq (n : Word) : oddTapCount n = oddIn 1 Config.firMaxTaps n := by
  simp only [oddTapCount, oddIn, Bool.decide_and, Bool.and_assoc]
  rfl

/-! ## The form -/

/-- The form of a command: past the checks `cs`, which R456 puts before those of its regions, and the checks of its
regions it leaves `t`. Of its regions only the last is stored in, which is D. -/
inductive CommandForm (s : State) (i : Instr) : Prop
  | mk (cs : List Check) (t : State) (hexec : exec i s = checked s (cs ++ regionChecks (operandRegions s i)) t)
    (hready : OperandsReady s i → ∀ c ∈ cs, c.ok = true) (hretired : t.retired = s.retired + 1#64)
    (hdmem : t.dmem = s.dmem ∨ ∃ r, (operandRegions s i).getLast? = some r ∧ r.Stores s.dmem t.dmem)

section
variable {s e : State} {i : Instr} {r : Region} {m : Memory}

/-- A command without regions and without checks. -/
theorem CommandForm.of_control {t : State} (hexec : exec i s = checked s [] t) (hr : operandRegions s i = [])
    (hretired : t.retired = s.retired + 1#64) (hdmem : t.dmem = s.dmem) : CommandForm s i :=
  .mk [] t (by rw [hexec, hr]; rfl) (fun _ => by simp) hretired (.inl hdmem)

/-- A command that stores in its last region. -/
theorem CommandForm.of_store (cs : List Check)
    (hexec : exec i s = command s (cs ++ regionChecks (operandRegions s i)) (e.setDmem m))
    (hready : OperandsReady s i → ∀ c ∈ cs, c.ok = true) (hretired : e.retired = s.retired)
    (hr : (operandRegions s i).getLast? = some r) (hstores : r.Stores s.dmem m) : CommandForm s i :=
  .mk cs (complete (e.setDmem m)) hexec hready (congrArg (· + 1#64) hretired) (.inr ⟨r, hr, hstores⟩)

/-- A command that stores in its last region and reports a count. -/
theorem CommandForm.of_storeCount {q : Nat} (cs : List Check)
    (hexec : exec i s = command s (cs ++ regionChecks (operandRegions s i)) ((e.setDmem m).setCount q))
    (hready : OperandsReady s i → ∀ c ∈ cs, c.ok = true) (hretired : e.retired = s.retired)
    (hr : (operandRegions s i).getLast? = some r) (hstores : r.Stores s.dmem m) : CommandForm s i :=
  .mk cs (complete ((e.setDmem m).setCount q)) hexec hready (congrArg (· + 1#64) hretired) (.inr ⟨r, hr, hstores⟩)

/-- A command with no check before those of its regions, whose effect is to store in the last one. -/
theorem CommandForm.of_setDmem (hexec : exec i s = command s (regionChecks (operandRegions s i)) (s.setDmem m))
    (hr : (operandRegions s i).getLast? = some r) (hstores : r.Stores s.dmem m) : CommandForm s i :=
  .of_store [] hexec (fun _ => by simp) rfl hr hstores

/-- A command that leaves DMEM alone. -/
theorem CommandForm.of_units (cs : List Check)
    (hexec : exec i s = command s (cs ++ regionChecks (operandRegions s i)) e)
    (hready : OperandsReady s i → ∀ c ∈ cs, c.ok = true) (hretired : e.retired = s.retired)
    (hdmem : e.dmem = s.dmem) : CommandForm s i :=
  .mk cs (complete e) hexec hready (congrArg (· + 1#64) hretired) (.inl hdmem)

end

/-- Every command has the form. -/
theorem exec_form (i : Instr) (s : State) : CommandForm s i := by
  cases i with
  | nop => exact .of_control rfl rfl rfl rfl
  | halt => exact .of_control rfl rfl rfl rfl
  | jump a => exact .of_control rfl rfl rfl rfl
  | lset n => exact .of_control rfl rfl rfl rfl
  | loop a =>
    refine .of_control rfl rfl ?_ ?_
    · rw [loopEffect_eq]; rfl
    · rw [loopEffect_eq]; rfl
  | signal => exact .of_control rfl rfl rfl rfl
  | vadd a b d n => exact .of_setDmem rfl rfl (stores_writeCpxs _ _ (by simp))
  | vsub a b d n => exact .of_setDmem rfl rfl (stores_writeCpxs _ _ (by simp))
  | vmul a b d n => exact .of_setDmem rfl rfl (stores_writeCpxs _ _ (by simp))
  | vdiv a b d n => exact .of_setDmem rfl rfl (stores_writeCpxs _ _ (by simp))
  | vscale a d n k0 => exact .of_setDmem rfl rfl (stores_writeCpxs _ _ (by simp))
  | vconj a d n => exact .of_setDmem rfl rfl (stores_writeCpxs _ _ (by simp))
  | vmag a d n => exact .of_setDmem rfl rfl (stores_writeReals _ _ (by simp))
  | vsqmag a d n => exact .of_setDmem rfl rfl (stores_writeReals _ _ (by simp))
  | vpolar a d n => exact .of_setDmem rfl rfl (stores_writeCpxs _ _ (by simp))
  | vrect a d n => exact .of_setDmem rfl rfl (stores_writeCpxs _ _ (by simp))
  | vclear d n => exact .of_setDmem rfl rfl (stores_writeCpxs _ _ (by simp))
  | vcopy a d n => exact .of_setDmem rfl rfl (stores_writeCpxs _ _ (by simp))
  | vdecim a d n m =>
    refine .of_storeCount [fieldCheck (m.toNat != 0) 5] rfl (fun h => ?_) rfl rfl
      (stores_writeCpxs _ _ (by simp [strided]))
    simpa [fieldRanges, BitVec.toNat_eq] using h.fields
  | vnormsqr a d n => exact .of_setDmem rfl rfl (stores_wrR _ _ _)
  | vnorm a d n => exact .of_setDmem rfl rfl (stores_wrR _ _ _)
  | vpeak a d n => exact .of_setDmem rfl rfl (stores_wrR _ _ _)
  | vpeakpwr a d n => exact .of_setDmem rfl rfl (stores_wrR _ _ _)
  | dlCfg u n m =>
    refine .of_units [_, _, _] rfl (fun h => ?_) rfl rfl
    simpa using ⟨h.unit u _ rfl, by simpa [fieldRanges] using h.fields⟩
  | dlPush u a n =>
    refine .of_units (dlChecks u s) rfl (fun h => ?_) rfl rfl
    simpa [dlChecks] using ⟨h.unit u _ rfl, h.configured _ _ rfl⟩
  | dlTap u d m =>
    refine .of_store (dlChecks u s) rfl (fun h => ?_) rfl rfl (stores_wrC _ _ _)
    simpa [dlChecks] using ⟨h.unit u _ rfl, h.configured _ _ rfl⟩
  | dlMac u a d n =>
    refine .of_store (dlChecks u s) rfl (fun h => ?_) rfl rfl (stores_wrC _ _ _)
    simpa [dlChecks] using ⟨h.unit u _ rfl, h.configured _ _ rfl⟩
  | hbCfg u mode a n m p k0 =>
    have hregions : operandRegions s (.hbCfg u mode a n m p k0) = if mode = 1 then [realRegion a n.toNat] else [] := rfl
    refine .of_units (e := s.setHb u.toNat (configuredHalfband s.dmem mode a n m p k0)) [unitCheck u Config.hbUnits,
      fieldCheck (decide (mode.toNat ≤ 2)) 0,
      fieldCheck (decide (mode = 1#4 → n.toNat % 2 = 1 ∧ 3 ≤ n.toNat ∧ n.toNat ≤ Config.hbMaxTaps)) 4,
      fieldCheck (decide (mode = 0#4 → m.toNat < 14)) 5,
      fieldCheck (decide (p = 2#32 ∨ p = 4#32)) 6] ?_ (fun h => ?_) rfl rfl
    · rw [hregions, apply_ite regionChecks]
      rfl
    · simpa using ⟨h.unit u _ rfl, by simpa [fieldRanges, oddIn, and_assoc] using h.fields⟩
  | hbRun u a d n =>
    refine .of_storeCount [_, _] rfl (fun h => ?_) rfl rfl
      (stores_writeCpxs _ _ (by simp [Halfband.apply_length]))
    simpa using ⟨h.unit u _ rfl, h.configured _ _ rfl⟩
  | chBuild u d n m p =>
    refine .of_storeCount [_, _] rfl (fun h => ?_) rfl rfl (stores_writeReport _ _ _)
    simpa using ⟨h.unit u _ rfl, by simpa [fieldRanges, BitVec.toNat_eq] using h.fields⟩
  | chProc u a d n =>
    refine .of_storeCount [_, _] rfl (fun h => ?_) rfl rfl
      (stores_writeCpxs _ _ (by simp [runStages_length]))
    simpa using ⟨h.unit u _ rfl, by simpa [fieldRanges, BitVec.toNat_eq] using h.fields⟩
  | chInfo u d =>
    refine .of_storeCount [_] rfl (fun h => ?_) rfl rfl (stores_writeStageRecords _ _ _)
    simpa using h.unit u _ rfl
  | firCfg u mode a n m =>
    refine .of_units [_, _, _, _, _] rfl (fun h => ?_) rfl rfl
    simpa [tapCountOk] using ⟨h.unit u _ rfl, h.firCfg_fields⟩
  | firRun u a d n =>
    refine .mk (firRunChecks u.toNat n.toNat u s) _ rfl firRunChecks_ok ?_ (.inr ⟨_, rfl, ?_⟩)
    · split <;> rfl
    · split
      · exact stores_writeCpxs _ _ (by simp [tdRun_length])
      · exact stores_writeCpxs _ _ (by simp)
  | firGenlp mode d n k0 =>
    refine .of_store [_, _, _] rfl (fun h => ?_) rfl rfl (stores_writeReals _ _ (by simp [genLP_length]))
    simpa [fieldRanges, oddTapCount_eq, cutoffOk] using h.fields
  | firGenhp mode d n k0 =>
    refine .of_store [_, _, _] rfl (fun h => ?_) rfl rfl
      (stores_writeReals _ _ (by simp [invertTaps_length, genLP_length]))
    simpa [fieldRanges, oddTapCount_eq, cutoffOk] using h.fields
  | firGenbs mode d n k0 k1 =>
    refine .of_store [_, _, _, _] rfl (fun h => ?_) rfl rfl (stores_writeReals _ _ (by simp [bandstopTaps_length]))
    simpa [fieldRanges, oddTapCount_eq, cutoffOk] using h.fields
  | firGenbp mode d n k0 k1 =>
    refine .of_store [_, _, _, _] rfl (fun h => ?_) rfl rfl
      (stores_writeReals _ _ (by simp [invertTaps_length, bandstopTaps_length]))
    simpa [fieldRanges, oddTapCount_eq, cutoffOk] using h.fields
  | firInvert a d n =>
    refine .of_store [_] rfl (fun h => ?_) rfl rfl (stores_writeReals _ _ (by simp [invertTaps_length]))
    simpa [fieldRanges, oddTapCount_eq] using h.fields
  | firReverse a d n =>
    refine .of_store [_] rfl (fun h => ?_) rfl rfl (stores_writeReals _ _ (by simp [reverseTaps_length]))
    simpa [fieldRanges, tapCountOk] using h.fields
  | iirCfg u mode a n => 
    refine .of_units [_, _, _, _] rfl (fun h => ?_) rfl rfl
    simpa using ⟨h.unit u _ rfl, h.iirCfg_fields⟩
  | iirRun u a d n =>
    refine .of_store (iirChecks u s) rfl (fun h => ?_) rfl rfl (stores_writeCpxs _ _ (by simp [iirRun_length]))
    simpa [iirChecks] using ⟨h.unit u _ rfl, h.configured _ _ rfl⟩
  | iirClr u =>
    refine .of_units (iirChecks u s) rfl (fun h => ?_) rfl rfl
    simpa [iirChecks] using ⟨h.unit u _ rfl, h.configured _ _ rfl⟩
  | gzCfg u mode n m p k0 k1 k2 =>
    refine .of_units [_, _, _, _, _, _, _, _] rfl (fun h => ?_) rfl rfl
    simpa using ⟨h.unit u _ rfl, h.gzCfg_fields⟩
  | gzRun u a d n =>
    refine .of_storeCount [_, _] rfl (fun h => ?_) rfl rfl
      (stores_writeGzRecords _ _ ((gzRun_length_le _ _).trans_eq (by simp)))
    simpa using ⟨h.unit u _ rfl, h.configured _ _ rfl⟩
  | ncoCfg u k0 k1 k2 =>
    refine .of_units [_, _, _, _] rfl (fun h => ?_) rfl rfl
    simpa using ⟨h.unit u _ rfl, by simpa [fieldRanges, freqOk] using h.fields⟩
  | ncoFreq u k0 =>
    refine .of_units (ncoChecks u s ++ [fieldCheck (freqOk k0 (s.ncoAt u.toNat).fs) 8]) rfl (fun h => ?_) rfl rfl
    simpa [ncoChecks] using ⟨h.unit u _ rfl, h.configured _ _ rfl, by simpa [fieldRanges, freqOk] using h.fields⟩
  | ncoMix u a d n =>
    refine .of_store (ncoChecks u s) rfl (fun h => ?_) rfl rfl (stores_writeCpxs _ _ (by simp [mixRun_length]))
    simpa [ncoChecks] using ⟨h.unit u _ rfl, h.configured _ _ rfl⟩

end Sys2Proof.Machine
end

section
/-! PROOFS. The statements of spec/20_memory.md and the region faults of every command: every step keeps the form of
DMEM (R100, R107), and the alignment and range faults come in the order of R456 (R103, R104). -/

namespace Sys2Proof.Machine

/-! ## The form of DMEM (R100) -/

theorem MemoryInv.of_dmem {s t : State} (h : MemoryInv s) (ht : t.dmem = s.dmem) : MemoryInv t :=
  ⟨ht ▸ h.wf, ht ▸ h.inDmem⟩

/-- Past its region checks a command stores inside DMEM, and a faulting command stores nothing. -/
theorem exec_memoryInv {i : Instr} {s t : State} (h : MemoryInv s) (hexec : exec i s = .next t) : MemoryInv t := by
  obtain ⟨cs, e, hform, -, -, hdmem⟩ := exec_form i s
  rw [hform] at hexec
  rcases checked_cases s e (cs ++ regionChecks (operandRegions s i)) with ⟨hok, hdone⟩ | ⟨k, -, -, -, hfault⟩
  · obtain rfl : e = t := Host.Outcome.next.inj (hdone.symm.trans hexec)
    rcases hdmem with hsame | ⟨r, hlast, hstores⟩
    · exact h.of_dmem hsame
    · have hregions := (regionChecks_ok_iff _).mp fun c hc => hok c (List.mem_append_right cs hc)
      have hrange := (hregions r (List.mem_of_getLast? hlast)).2
      exact ⟨hstores.wf h.wf, hstores.inDmem hrange h.inDmem⟩
  · obtain rfl : takeFault k.cause k.info s = t := Host.Outcome.next.inj (hfault.symm.trans hexec)
    exact h.of_dmem rfl

theorem CsrWritten.dmem {s t : State} (h : CsrWritten s t) : t.dmem = s.dmem := by cases h <;> rfl

/-- The host stores bytes inside DMEM only, and a hardware reset leaves bytes inside it (R480, R500). -/
theorem hostMove_memoryInv {mv : HostMove} {s t : State} (h : MemoryInv s) (hmove : hostMove mv s = .next t) :
    MemoryInv t := by
  cases mv with
  | readCsr o width =>
    simp only [hostMove] at hmove
    split at hmove
    · cases hmove
      exact h.of_dmem rfl
    · cases hmove
  | writeCsr o width v =>
    simp only [hostMove] at hmove
    split at hmove
    · cases hmove
      exact h.of_dmem (writeCsr_written s o v).dmem
    · cases hmove
  | readDmem addr count =>
    simp only [hostMove] at hmove
    split at hmove
    · cases hmove
    · split at hmove
      · cases hmove
        exact h.of_dmem rfl
      · cases hmove
  | writeDmem addr bytes =>
    simp only [hostMove] at hmove
    split at hmove
    · cases hmove
    · split at hmove
      · rename_i hrange
        cases hmove
        exact ⟨wf_writeBytes h.wf addr bytes, inDmem_writeBytes h.inDmem (.inr (of_decide_eq_true hrange))⟩
      · cases hmove
  | observeIrq =>
    cases hmove
    exact h.of_dmem rfl
  | hardwareReset cells =>
    cases hmove
    exact ⟨(ofCells_ok cells).1, (ofCells_ok cells).2⟩

theorem atBoundary_dmem (s : State) : (atBoundary s).dmem = s.dmem := by
  unfold atBoundary endRun
  split
  · rfl
  · split <;> rfl

theorem sequencerTurn_memoryInv {s t : State} (h : MemoryInv s) (hturn : SequencerTurn s t) : MemoryInv t := by
  cases hturn with
  | idle => exact h
  | softReset => exact h.of_dmem rfl
  | abort => exact h.of_dmem rfl
  | fault _ c v _ => exact h.of_dmem (atBoundary_dmem _)
  | command _ hexec => exact (exec_memoryInv h hexec).of_dmem (atBoundary_dmem _)

/-- A step is a move of the host or a turn of the sequencer, once the host's slot is consumed. -/
theorem step_hostMove_or_turn {s t : State} (h : step s = .next t) :
    ∃ slots, (∃ mv, hostMove mv { s with inputs := slots } = .next t) ∨ SequencerTurn { s with inputs := slots } t := by
  rw [step_eq_outcome] at h
  unfold nextAction at h
  split at h
  · exact ⟨_, .inl ⟨_, h⟩⟩
  · exact ⟨_, .inr (sequencerAction_turn h)⟩
  · exact ⟨s.inputs, .inr (sequencerAction_turn h)⟩

/-- Settles O16: the host stores inside DMEM only, and a command stores in a region that its checks have found there. -/
theorem stepKeepsMemoryForm : Obligations.StepKeepsMemoryForm := by
  unfold Obligations.StepKeepsMemoryForm
  intro s t h hstep
  obtain ⟨slots, houtcome⟩ := step_hostMove_or_turn hstep
  have hslots : MemoryInv { s with inputs := slots } := h.of_dmem rfl
  rcases houtcome with ⟨mv, hmove⟩ | hturn
  · exact hostMove_memoryInv hslots hmove
  · exact sequencerTurn_memoryInv hslots hturn

/-! ## The order of the region faults (R456) -/

theorem firstFault_of_ok {cs ds : List Check} (h : ∀ c ∈ cs, c.ok = true) : firstFault (cs ++ ds) = firstFault ds := by
  rw [firstFault_append, (firstFault_eq_none_iff cs).mpr h, Option.none_or]

/-- Checks of one cause, one for each region: the fault is that of the first region that fails, with its address. -/
theorem firstFault_map {check : Region → Check} {bad : Region → Bool} {cause : Cause}
    (hok : ∀ r, (check r).ok = !bad r) (hcause : ∀ r, (check r).cause = cause) (hinfo : ∀ r, (check r).info = r.addr)
    (rs : List Region) : firstFault (rs.map check) = ((rs.find? bad).map Region.addr).map fun a => (cause, a) := by
  induction rs with
  | nil => rfl
  | cons r rs ih =>
    rw [List.map_cons, firstFault_cons, hok, hcause, hinfo, ih, List.find?_cons]
    cases bad r <;> rfl

/-- Every alignment test comes before any range test. -/
theorem firstFault_regionChecks (s : State) (i : Instr) :
    firstFault (regionChecks (operandRegions s i)) =
      ((misalignedOf s i).map fun a => (.operandMisaligned, a)).or
        ((outsideOf s i).map fun a => (.operandRange, a)) := by
  have halign := firstFault_map (check := alignCheck) (bad := fun r => r.addr.toNat % r.align != 0)
    (fun r => by simp [alignCheck, Region.aligned, bne]) (fun _ => rfl) (fun _ => rfl) (operandRegions s i)
  have hrange := firstFault_map (check := rangeCheck)
    (bad := fun r => r.count != 0 && Config.dmemBytes < r.addr.toNat + r.count * r.esize)
    (fun r => by rw [Bool.eq_iff_iff]; simp [rangeCheck, Region.inRange, or_iff_not_imp_left]) (fun _ => rfl)
    (fun _ => rfl) (operandRegions s i)
  rw [regionChecks, firstFault_append, halign, hrange]
  rfl

/-- Settles O29: past the checks of units and fields the outcome is that of the region checks. -/
theorem regionFaultsInOrder : Obligations.RegionFaultsInOrder := by
  unfold Obligations.RegionFaultsInOrder
  intro i s hunit hconfigured hline hfields
  obtain ⟨cs, e, hform, hready, hretired, -⟩ := exec_form i s
  have hcs := hready ⟨hunit, hconfigured, hline, badFieldOf_eq_none_iff.mp hfields⟩
  have hfirst := (firstFault_of_ok hcs).trans (firstFault_regionChecks s i)
  rw [hform]
  refine ⟨fun a hmis => ?_, fun hal a hout => ?_, fun hal hin => ?_⟩
  · rw [hmis] at hfirst
    exact ⟨_, checked_of_fault hfirst, takeFault_entered _ _ _⟩
  · rw [hal, hout] at hfirst
    exact ⟨_, checked_of_fault hfirst, takeFault_entered _ _ _⟩
  · rw [hal, hin] at hfirst
    exact ⟨e, checked_of_ok ((firstFault_eq_none_iff _).mp hfirst), hretired⟩

/-! ## Commands on one CPX array (R220, R228-R235) -/

/-- What a command leaves that stores `zs` as a CPX array at `d`, and does nothing else (R202). -/
theorem storeCpxs_completes {s : State} {cs : List Check} (d : Word) (zs : List Cpx) (hwf : s.dmem.wf = true)
    (hok : ∀ c ∈ cs, c.ok = true) :
    ∃ t, command s cs (s.setDmem (writeCpxs s.dmem d.toNat zs)) = .next t ∧
      (∀ k (hk : k < zs.length), rdC t.dmem (d.toNat + 16 * k) = zs[k]) ∧
      KeptOutside s t d.toNat (16 * zs.length) ∧ Completed s t ∧ SameUnits s t ∧ t.lastCount = s.lastCount := by
  obtain ⟨hdone, hunits, hcount, hdmem⟩ := complete_setDmem s (writeCpxs s.dmem d.toNat zs)
  refine ⟨_, command_of_ok hok, fun k hk => ?_, keptOutside_writeCpxs hwf _ _ hdmem, hdone, hunits, hcount⟩
  rw [hdmem, rdC_writeCpxs hwf]

/-- What a command leaves that stores `xs` as a real array at `d`, and does nothing else (R202). -/
theorem storeReals_completes {s : State} {cs : List Check} (d : Word) (xs : List F64) (hwf : s.dmem.wf = true)
    (hok : ∀ c ∈ cs, c.ok = true) :
    ∃ t, command s cs (s.setDmem (writeReals s.dmem d.toNat xs)) = .next t ∧
      (∀ k (hk : k < xs.length), rdR t.dmem (d.toNat + 8 * k) = xs[k]) ∧
      KeptOutside s t d.toNat (8 * xs.length) ∧ Completed s t ∧ SameUnits s t ∧ t.lastCount = s.lastCount := by
  obtain ⟨hdone, hunits, hcount, hdmem⟩ := complete_setDmem s (writeReals s.dmem d.toNat xs)
  refine ⟨_, command_of_ok hok, fun k hk => ?_, keptOutside_writeReals hwf _ _ hdmem, hdone, hunits, hcount⟩
  rw [hdmem, rdR_writeReals hwf]

section
variable {s : State} {a d n : Word}

/-- R220: the source is read before the destination is written, so the regions may overlap. -/
theorem unaryCpx_completes (f : Cpx → Cpx) (hwf : s.dmem.wf = true) (ha : LegalCpxs a n.toNat)
    (hd : LegalCpxs d n.toNat) :
    ∃ t, unaryCpx f a d n s = .next t ∧
      (∀ k < n.toNat, rdC t.dmem (d.toNat + 16 * k) = f (rdC s.dmem (a.toNat + 16 * k))) ∧
      KeptOutside s t d.toNat (16 * n.toNat) ∧ Completed s t ∧ SameUnits s t ∧ t.lastCount = s.lastCount := by
  have hok := regionChecks_ok (rs := [cpxRegion a n.toNat, cpxRegion d n.toNat])
    (by simpa using ⟨(cpxRegion_ok_iff a _).mpr ha, (cpxRegion_ok_iff d _).mpr hd⟩)
  simpa [unaryCpx] using storeCpxs_completes d ((readCpxs s.dmem a.toNat n.toNat).map f) hwf hok

/-- R220 for a real destination. -/
theorem unaryReal_completes (f : Cpx → F64) (hwf : s.dmem.wf = true) (ha : LegalCpxs a n.toNat)
    (hd : LegalReals d n.toNat) :
    ∃ t, unaryReal f a d n s = .next t ∧
      (∀ k < n.toNat, rdR t.dmem (d.toNat + 8 * k) = f (rdC s.dmem (a.toNat + 16 * k))) ∧
      KeptOutside s t d.toNat (8 * n.toNat) ∧ Completed s t ∧ SameUnits s t ∧ t.lastCount = s.lastCount := by
  have hok := regionChecks_ok (rs := [cpxRegion a n.toNat, realRegion d n.toNat])
    (by simpa using ⟨(cpxRegion_ok_iff a _).mpr ha, (realRegion_ok_iff d _).mpr hd⟩)
  simpa [unaryReal] using storeReals_completes d ((readCpxs s.dmem a.toNat n.toNat).map f) hwf hok

end

/-- Settles O26: each of the seven commands is `unaryCpx` or `unaryReal` of its operation. -/
theorem unaryCommandsComputeElementwise : Obligations.UnaryCommandsComputeElementwise := by
  unfold Obligations.UnaryCommandsComputeElementwise
  intro s a d n k0 hwf ha
  simp only [List.forall_mem_cons, List.not_mem_nil, false_implies, implies_true, and_true]
  exact ⟨fun hd => ⟨unaryCpx_completes (cscale · k0) hwf ha hd, unaryCpx_completes cconj hwf ha hd,
      unaryCpx_completes polar hwf ha hd, unaryCpx_completes rect hwf ha hd, unaryCpx_completes id hwf ha hd⟩,
    fun hd => ⟨unaryReal_completes mag hwf ha hd, unaryReal_completes sqmag hwf ha hd⟩⟩

end Sys2Proof.Machine
end

section
/-! PROOFS. The opcode map against the encoder and the fields of R144 (spec/30_encoding.md R141, R143-R145): which
fields a row uses, what it reads, and which commands are well-formed. -/

namespace Sys2Proof.Machine

/-! ## The fields of a descriptor (R141) -/

theorem forall_descField {p : DescField → Prop} :
    (∀ f, p f) ↔ p .unit ∧ p .mode ∧ p .a ∧ p .b ∧ p .d ∧ p .n ∧ p .m ∧ p .p ∧ p .k0 ∧ p .k1 ∧ p .k2 :=
  ⟨fun h => ⟨h _, h _, h _, h _, h _, h _, h _, h _, h _, h _, h _⟩,
    fun ⟨_, _, _, _, _, _, _, _, _, _, _⟩ f => by cases f <;> assumption⟩

theorem exists_descField {p : DescField → Prop} :
    (∃ f, p f) ↔ p .unit ∨ p .mode ∨ p .a ∨ p .b ∨ p .d ∨ p .n ∨ p .m ∨ p .p ∨ p .k0 ∨ p .k1 ∨ p .k2 := by
  rw [← not_iff_not, not_exists, forall_descField]
  simp only [not_or]

@[simp] theorem unit_mk_encodeW0 (o : BitVec 8) (u mode : Nib) (a b d n m p w7 : Word) (k0 k1 k2 : F64)
    (w14 w15 : Word) : Desc.unit ⟨encodeW0 o u mode, a, b, d, n, m, p, w7, k0, k1, k2, w14, w15⟩ = u :=
  encodeW0_unit o u mode

@[simp] theorem mode_mk_encodeW0 (o : BitVec 8) (u mode : Nib) (a b d n m p w7 : Word) (k0 k1 k2 : F64)
    (w14 w15 : Word) : Desc.mode ⟨encodeW0 o u mode, a, b, d, n, m, p, w7, k0, k1, k2, w14, w15⟩ = mode :=
  encodeW0_mode o u mode

/-- The reserved bits of W[0] and the reserved words are zero (R141). -/
structure ReservedZero (x : Desc) : Prop where
  reserved0 : x.reserved0 = 0
  w7 : x.w7 = 0
  w14 : x.w14 = 0
  w15 : x.w15 = 0

theorem reservedZero_encodeDesc (i : Instr) : ReservedZero (encodeDesc i) := by
  cases i <;> exact ⟨encodeW0_reserved _ _ _, rfl, rfl, rfl⟩

/-- A descriptor is its opcode, the fields a command may use, and the reserved words (R141). -/
theorem desc_eq {x y : Desc} (hopc : x.opc = y.opc) (hfields : ∀ f, fieldValue x f = fieldValue y f)
    (hx : ReservedZero x) (hy : ReservedZero y) : x = y := by
  obtain ⟨hx0, hx7, hx14, hx15⟩ := hx
  obtain ⟨hy0, hy7, hy14, hy15⟩ := hy
  obtain ⟨hunit, hmode, ha, hb, hd, hn, hm, hp, hk0, hk1, hk2⟩ := forall_descField.mp hfields
  simp only [fieldValue, BitVec.toNat_inj] at *
  have hw0 : x.w0 = y.w0 := by rw [← w0_of_fields x, ← w0_of_fields y, hx0, hy0, hopc, hunit, hmode]
  cases x
  cases y
  simp_all

/-! ## The rows of the opcode map (R144) -/

/-- Whether a row of R144 uses a field. -/
def usesField (u : Uses) : DescField → Bool
  | .unit => u.unit
  | .mode => u.mode
  | .a => u.a
  | .b => u.b
  | .d => u.d
  | .n => u.n
  | .m => u.m
  | .p => u.p
  | .k0 => u.k0
  | .k1 => u.k1
  | .k2 => u.k2

/-- The row says of every field whether the command uses it. -/
def UsesFieldsOf (u : Uses) (i : Instr) : Prop := ∀ f, usesField u f = true ↔ f ∈ usedFields i

/-- HB.CFG uses UNIT, MODE and P, and in each mode the fields R144 marks with it (90_conflicts.md C9). -/
theorem mem_usedFields_hbCfg {u mode : Nib} {a n m p : Word} {k0 : F64} {f : DescField} :
    f ∈ usedFields (.hbCfg u mode a n m p k0) ↔ f ∈ [.unit, .mode, .p] ∨ f = .m ∧ mode = 0#4 ∨
      f ∈ [.a, .n] ∧ mode = 1#4 ∨ f = .k0 ∧ (mode = 1#4 ∨ mode = 2#4) := by
  simp only [usedFields, List.mem_append, BitVec.ofNat_eq_ofNat]
  refine or_congr Iff.rfl ?_
  split
  · simp [*]
  · split
    · simp [*, or_assoc]
    · split <;> simp [*]

/-- GZ.CFG uses M and K2 in modes 1 and 2 only. -/
theorem mem_usedFields_gzCfg {u mode : Nib} {n m p : Word} {k0 k1 k2 : F64} {f : DescField} :
    f ∈ usedFields (.gzCfg u mode n m p k0 k1 k2) ↔ f ∈ [.unit, .mode, .n, .p, .k0, .k1] ∨
      f ∈ [.m, .k2] ∧ (mode = 1#4 ∨ mode = 2#4) := by
  simp only [usedFields, List.mem_append, BitVec.ofNat_eq_ofNat]
  split <;> simp [*]

/-- What a row of the opcode map answers for a descriptor: the fields its command uses, and a command of the same opcode
that holds every field as the descriptor does, but for unused ones that its encoding leaves zero. -/
structure RowOf (d : Desc) (u : Uses) (i : Instr) : Prop where
  opc : (encodeDesc i).opc = d.opc
  uses : UsesFieldsOf u i
  fields : ∀ f, fieldValue (encodeDesc i) f = fieldValue d f ∨
    usesField u f = false ∧ fieldValue (encodeDesc i) f = 0

theorem rowOf_opcodeRow {d : Desc} {u : Uses} {i : Instr} (h : opcodeRow d = some (u, i)) : RowOf d u i := by
  unfold opcodeRow at h
  split at h <;> rename_i hopc <;> cases h
  all_goals
    constructor
    · exact (encodeW0_opc _ _ _).trans (BitVec.eq_of_toNat_eq hopc.symm)
    · intro f
      cases f <;> simp [usesField, ↓mem_usedFields_hbCfg, ↓mem_usedFields_gzCfg, usedFields]
    · intro f
      cases f <;> simp [usesField, fieldValue, encodeDesc, zeroDesc]

/-- The opcode map has no row exactly for R145's list. -/
theorem opcodeRow_eq_none_iff (d : Desc) : opcodeRow d = none ↔ unlistedOpcode d.opc.toNat := by
  have hopc := d.opc.isLt
  unfold opcodeRow unlistedOpcode
  split
  case h_49 => -- the default branch
    simp only [true_iff, imp_false] at *
    omega
  all_goals simp [*]

/-- Which fields a row uses depends on OPC, and on MODE only in the rows that use it. -/
theorem opcodeRow_of_sameOpc {x y : Desc} {u : Uses} {i : Instr} (h : opcodeRow y = some (u, i))
    (hopc : x.opc = y.opc) (hmode : usesField u .mode = true → x.mode = y.mode) : ∃ j, opcodeRow x = some (u, j) := by
  unfold opcodeRow at h ⊢
  rw [hopc]
  split at h <;> cases h
  case h_28 | h_44 => -- HB.CFG and GZ.CFG
    rw [hmode rfl]
    exact ⟨_, rfl⟩
  all_goals exact ⟨_, rfl⟩

/-- The laws of the encoding, one per instruction, as one. -/
theorem encoding_statement : ∀ i, Laws.Encoding.Statement i
  | .nop => Laws.Encoding.nop
  | .halt => Laws.Encoding.halt
  | .jump a => Laws.Encoding.jump a
  | .lset n => Laws.Encoding.lset n
  | .loop a => Laws.Encoding.loop a
  | .signal => Laws.Encoding.signal
  | .vadd a b d n => Laws.Encoding.vadd a b d n
  | .vsub a b d n => Laws.Encoding.vsub a b d n
  | .vmul a b d n => Laws.Encoding.vmul a b d n
  | .vdiv a b d n => Laws.Encoding.vdiv a b d n
  | .vscale a d n k0 => Laws.Encoding.vscale a d n k0
  | .vconj a d n => Laws.Encoding.vconj a d n
  | .vmag a d n => Laws.Encoding.vmag a d n
  | .vsqmag a d n => Laws.Encoding.vsqmag a d n
  | .vpolar a d n => Laws.Encoding.vpolar a d n
  | .vrect a d n => Laws.Encoding.vrect a d n
  | .vclear d n => Laws.Encoding.vclear d n
  | .vcopy a d n => Laws.Encoding.vcopy a d n
  | .vdecim a d n m => Laws.Encoding.vdecim a d n m
  | .vnormsqr a d n => Laws.Encoding.vnormsqr a d n
  | .vnorm a d n => Laws.Encoding.vnorm a d n
  | .vpeak a d n => Laws.Encoding.vpeak a d n
  | .vpeakpwr a d n => Laws.Encoding.vpeakpwr a d n
  | .dlCfg u n m => Laws.Encoding.dlCfg u n m
  | .dlPush u a n => Laws.Encoding.dlPush u a n
  | .dlTap u d m => Laws.Encoding.dlTap u d m
  | .dlMac u a d n => Laws.Encoding.dlMac u a d n
  | .hbCfg u mode a n m p k0 => Laws.Encoding.hbCfg u mode a n m p k0
  | .hbRun u a d n => Laws.Encoding.hbRun u a d n
  | .chBuild u d n m p => Laws.Encoding.chBuild u d n m p
  | .chProc u a d n => Laws.Encoding.chProc u a d n
  | .chInfo u d => Laws.Encoding.chInfo u d
  | .firCfg u mode a n m => Laws.Encoding.firCfg u mode a n m
  | .firRun u a d n => Laws.Encoding.firRun u a d n
  | .firGenlp mode d n k0 => Laws.Encoding.firGenlp mode d n k0
  | .firGenhp mode d n k0 => Laws.Encoding.firGenhp mode d n k0
  | .firGenbs mode d n k0 k1 => Laws.Encoding.firGenbs mode d n k0 k1
  | .firGenbp mode d n k0 k1 => Laws.Encoding.firGenbp mode d n k0 k1
  | .firInvert a d n => Laws.Encoding.firInvert a d n
  | .firReverse a d n => Laws.Encoding.firReverse a d n
  | .iirCfg u mode a n => Laws.Encoding.iirCfg u mode a n
  | .iirRun u a d n => Laws.Encoding.iirRun u a d n
  | .iirClr u => Laws.Encoding.iirClr u
  | .gzCfg u mode n m p k0 k1 k2 => Laws.Encoding.gzCfg u mode n m p k0 k1 k2
  | .gzRun u a d n => Laws.Encoding.gzRun u a d n
  | .ncoCfg u k0 k1 k2 => Laws.Encoding.ncoCfg u k0 k1 k2
  | .ncoFreq u k0 => Laws.Encoding.ncoFreq u k0
  | .ncoMix u a d n => Laws.Encoding.ncoMix u a d n

/-- The encoding of a command selects its own row of R144. -/
theorem opcodeRow_encodeDesc (i : Instr) : ∃ u, opcodeRow (encodeDesc i) = some (u, i) := by
  obtain ⟨⟨u, j⟩, hrow, rfl⟩ := Option.map_eq_some_iff.mp (encoding_statement i)
  exact ⟨u, hrow⟩

/-! ## Unused fields (R143) -/

theorem zeroUnless_iff {w : Nat} (used : Bool) (x : BitVec w) :
    zeroUnless used x = true ↔ (used = false → x.toNat = 0) := by
  cases used <;> simp [zeroUnless, ← BitVec.toNat_inj]

theorem zeroUnless_eq_false_iff {w : Nat} (used : Bool) (x : BitVec w) :
    zeroUnless used x = false ↔ used = false ∧ x.toNat ≠ 0 := by
  rw [← Bool.not_eq_true, zeroUnless_iff, Classical.not_imp]

/-- A command is well-formed where its encoding holds zero in the fields it does not use (R143). -/
theorem wellFormed_iff (i : Instr) :
    wellFormed i = true ↔ ∀ f, f ∉ usedFields i → fieldValue (encodeDesc i) f = 0 := by
  rw [forall_descField]
  cases i with
  | hbCfg u mode a n m p k0 =>
    simp [mem_usedFields_hbCfg, wellFormed, wellFormedHbCfg, zeroUnless_iff, fieldValue, encodeDesc, zeroDesc,
      and_assoc]
  | gzCfg u mode n m p k0 k1 k2 =>
    simp [mem_usedFields_gzCfg, wellFormed, wellFormedGzCfg, zeroUnless_iff, fieldValue, encodeDesc, zeroDesc]
  | _ => simp [wellFormed, usedFields, fieldValue, encodeDesc, zeroDesc]

theorem forall_not_nonzeroAt_iff (i : Instr) (x : Desc) :
    (∀ k, ¬ NonzeroAt i x k) ↔ ReservedZero x ∧ ∀ f, f ∉ usedFields i → fieldValue x f = 0 := by
  constructor
  · intro h
    refine ⟨⟨?_, ?_, ?_, ?_⟩, fun f hf => ?_⟩ <;> by_contra hne
    · exact h 0 (.inl ⟨rfl, hne⟩)
    · exact h 7 (.inr (.inl ⟨rfl, hne⟩))
    · exact h 14 (.inr (.inr (.inl ⟨rfl, hne⟩)))
    · exact h 15 (.inr (.inr (.inr (.inl ⟨rfl, hne⟩))))
    · exact h f.word (.inr (.inr (.inr (.inr ⟨f, rfl, hf, hne⟩))))
  · rintro ⟨⟨h0, h7, h14, h15⟩, hunused⟩ k (⟨_, hne⟩ | ⟨_, hne⟩ | ⟨_, hne⟩ | ⟨_, hne⟩ | ⟨f, _, hf, hne⟩)
    · exact hne h0
    · exact hne h7
    · exact hne h14
    · exact hne h15
    · exact hne (hunused f hf)

end Sys2Proof.Machine
end

section
/-! PROOFS. The decoder (spec/30_encoding.md R143, R145, R149): the lowest violated word, the three answers, and that
decoding and encoding are inverse. -/

namespace Sys2Proof.Machine

/-! ## The lowest violated word (R143) -/

/-- In a list in ascending order the first failing entry is the lowest one. -/
theorem find_eq_some_iff_lowest {l : List (Nat × Bool)} (h : (l.map Prod.fst).Pairwise (· < ·)) (k : Nat) :
    (l.find? fun c => !c.2).map Prod.fst = some k ↔ (k, false) ∈ l ∧ ∀ j < k, (j, false) ∉ l := by
  induction l with
  | nil => simp
  | cons c l ih =>
    obtain ⟨c, ok⟩ := c
    obtain ⟨hlt, hl⟩ := List.pairwise_cons.mp h
    have hc : ∀ j, (j, false) ∈ l → c < j := fun j hj => hlt j (List.mem_map_of_mem hj)
    cases ok with
    | true => simpa using ih hl
    | false =>
      simp only [List.find?_cons, Bool.not_false, Option.map_some, Option.some.injEq, List.mem_cons, Prod.mk.injEq,
        and_true]
      constructor
      · rintro rfl
        refine ⟨.inl rfl, ?_⟩
        rintro j hj (rfl | hmem)
        · exact Nat.lt_irrefl _ hj
        · exact Nat.lt_asymm hj (hc j hmem)
      · rintro ⟨rfl | hmem, hnone⟩
        · rfl
        · exact absurd (.inl rfl) (hnone c (hc k hmem))

section
variable {u : Uses} {i : Instr}

theorem mem_zeroChecks_iff (hu : UsesFieldsOf u i) (x : Desc) (k : Nat) :
    (k, false) ∈ zeroChecks x u ↔ NonzeroAt i x k := by
  unfold UsesFieldsOf at hu
  simp only [zeroChecks, NonzeroAt, List.mem_cons, Prod.mk.injEq, List.not_mem_nil, or_false, @eq_comm Bool false,
    @eq_comm Nat _ k, Bool.and_eq_false_iff, beq_eq_false_iff_ne, zeroUnless_eq_false_iff, ← hu, Bool.not_eq_true,
    exists_descField, DescField.word, fieldValue, usesField, BitVec.ofNat_eq_ofNat, and_or_left]
  exact Iff.of_eq (by ac_rfl)

theorem firstViolation_eq_some_iff (hu : UsesFieldsOf u i) (x : Desc) (k : Nat) :
    firstViolation x u = some k ↔ NonzeroAt i x k ∧ ∀ j < k, ¬ NonzeroAt i x j := by
  have hsorted : ((zeroChecks x u).map Prod.fst).Pairwise (· < ·) := by simp [zeroChecks]
  simp only [firstViolation, find_eq_some_iff_lowest hsorted, mem_zeroChecks_iff hu]

theorem firstViolation_eq_none_iff (hu : UsesFieldsOf u i) (x : Desc) :
    firstViolation x u = none ↔ ∀ k, ¬ NonzeroAt i x k := by
  simp [firstViolation, ← mem_zeroChecks_iff hu]

end

/-! ## The three answers (R149) -/

theorem decode_eq_illegalOpcode_iff (x : Desc) (w : Word) :
    decode x = .illegalOpcode w ↔ opcodeRow x = none ∧ x.w0 = w := by
  unfold decode
  split
  · simp [*]
  · split <;> simp [*]

theorem decode_eq_reservedNonzero_iff {x : Desc} {u : Uses} {i : Instr} (h : opcodeRow x = some (u, i)) (k : Nat) :
    decode x = .reservedNonzero k ↔ firstViolation x u = some k := by
  unfold decode
  rw [h]
  dsimp only
  split <;> simp [*]

theorem decode_eq_command_iff (x : Desc) (i : Instr) :
    decode x = .command i ↔ ∃ u, opcodeRow x = some (u, i) ∧ firstViolation x u = none := by
  unfold decode
  split
  · simp [*]
  · split <;> simp [*]

theorem decode_encodeDesc {i : Instr} (hwf : wellFormed i = true) : decode (encodeDesc i) = .command i := by
  obtain ⟨u, hrow⟩ := opcodeRow_encodeDesc i
  have hzero : ∀ k, ¬ NonzeroAt i (encodeDesc i) k :=
    (forall_not_nonzeroAt_iff i _).mpr ⟨reservedZero_encodeDesc i, (wellFormed_iff i).mp hwf⟩
  have hviolation := (firstViolation_eq_none_iff (rowOf_opcodeRow hrow).uses _).mpr hzero
  exact (decode_eq_command_iff _ i).mpr ⟨u, hrow, hviolation⟩

/-- Settles O1: no field of an encoding that its row leaves unused is non-zero, and its bytes are those of the
descriptor. -/
theorem decodeReadsEveryEncoding : Obligations.DecodeReadsEveryEncoding := by
  unfold Obligations.DecodeReadsEveryEncoding
  intro i hwf
  exact ⟨decode_encodeDesc hwf, by rw [encodeBytes, ofBytes_bytes]; exact decode_encodeDesc hwf⟩

/-- Settles O2: the encoder puts each operand back where its row took it from, and everything else is zero on both
sides. -/
theorem decodedDescriptorIsTheEncoding : Obligations.DecodedDescriptorIsTheEncoding := by
  unfold Obligations.DecodedDescriptorIsTheEncoding
  intro d i h
  obtain ⟨u, hrow, hviolation⟩ := (decode_eq_command_iff d i).mp h
  obtain ⟨hopc, huses, hfields⟩ := rowOf_opcodeRow hrow
  obtain ⟨hreserved, hunused⟩ :=
    (forall_not_nonzeroAt_iff i d).mp ((firstViolation_eq_none_iff huses d).mp hviolation)
  have henc : encodeDesc i = d := by
    refine desc_eq hopc (fun f => ?_) (reservedZero_encodeDesc i) hreserved
    rcases hfields f with hcopied | ⟨hf, hzero⟩
    · exact hcopied
    · rw [hzero, hunused f fun hmem => by simp [(huses f).mpr hmem] at hf]
  exact ⟨(wellFormed_iff i).mpr (henc ▸ hunused), henc⟩

/-- Settles O4: a descriptor is illegal where the opcode map has no row. -/
theorem unlistedOpcodesAreIllegal : Obligations.UnlistedOpcodesAreIllegal := by
  unfold Obligations.UnlistedOpcodesAreIllegal
  intro d
  simp only [decode_eq_illegalOpcode_iff, ← opcodeRow_eq_none_iff]
  exact ⟨⟨fun ⟨_, hnone, _⟩ => hnone, fun hnone => ⟨_, hnone, rfl⟩⟩, fun w ⟨_, hw⟩ => hw.symm⟩

/-! ## A command's descriptor with other bits set -/

/-- Such a descriptor selects a row that uses the fields of the command, though its operand may differ in a field that
the command's mode leaves unused. -/
theorem opcodeRow_of_sameCommand {i : Instr} {x : Desc} (h : SameCommand i x) :
    ∃ u j, opcodeRow x = some (u, j) ∧ UsesFieldsOf u i := by
  obtain ⟨hopc, hused⟩ := h
  obtain ⟨u, hrow⟩ := opcodeRow_encodeDesc i
  have huses := (rowOf_opcodeRow hrow).uses
  have hmode (huse : usesField u .mode = true) : x.mode = (encodeDesc i).mode :=
    BitVec.eq_of_toNat_eq (hused .mode ((huses .mode).mp huse))
  obtain ⟨j, hj⟩ := opcodeRow_of_sameOpc hrow hopc hmode
  exact ⟨u, j, hj, huses⟩

theorem eq_encodeDesc_of_sameCommand {i : Instr} {x : Desc} (hwf : wellFormed i = true) (h : SameCommand i x)
    (hzero : ∀ k, ¬ NonzeroAt i x k) : x = encodeDesc i := by
  obtain ⟨hopc, hused⟩ := h
  obtain ⟨hreserved, hunused⟩ := (forall_not_nonzeroAt_iff i x).mp hzero
  refine desc_eq hopc (fun f => ?_) hreserved (reservedZero_encodeDesc i)
  by_cases hf : f ∈ usedFields i
  · exact hused f hf
  · rw [hunused f hf, (wellFormed_iff i).mp hwf f hf]

/-- Settles O5: the row of such a descriptor uses the fields of the command, so its violations are those of the
command. -/
theorem reservedFieldsAreReported : Obligations.ReservedFieldsAreReported := by
  unfold Obligations.ReservedFieldsAreReported
  intro i x hwf hsame
  obtain ⟨u, j, hrow, huses⟩ := opcodeRow_of_sameCommand hsame
  refine ⟨⟨fun hdecode => ?_, fun hzero => ?_⟩, fun k => ?_⟩
  · obtain ⟨v, hv, hviolation⟩ := (decode_eq_command_iff x i).mp hdecode
    exact (firstViolation_eq_none_iff (rowOf_opcodeRow hv).uses x).mp hviolation
  · rw [eq_encodeDesc_of_sameCommand hwf hsame hzero]
    exact decode_encodeDesc hwf
  · rw [decode_eq_reservedNonzero_iff hrow, firstViolation_eq_some_iff huses]

/-- Settles O3, each word by evaluation. -/
theorem writtenWordsDecode : Obligations.WrittenWordsDecode := by
  unfold Obligations.WrittenWordsDecode
  decide +kernel

end Sys2Proof.Machine
end

section
/-! PROOFS. The assembler's pseudo-instructions and the first worked program (spec/30_encoding.md R147, R148). -/

namespace Sys2Proof.Machine

theorem parseFields_eq_some_iff {ts : List (List Char)} {fs : List Field} :
    parseFields ts = some fs ↔ ts.mapM parseField = some fs ∧ (fs.map Prod.fst).Nodup := by
  unfold parseFields
  split
  · split <;> grind
  · simp [*]

theorem parseFields_cons {t : List Char} {ts : List (List Char)} {f : Field} {fs : List Field}
    (ht : parseField t = some f) (hts : parseFields ts = some fs) (hnew : ∀ g ∈ fs, g.1 ≠ f.1) :
    parseFields (t :: ts) = some (f :: fs) := by
  obtain ⟨hparsed, hnodup⟩ := parseFields_eq_some_iff.mp hts
  refine parseFields_eq_some_iff.mpr ⟨by simp [ht, hparsed], List.nodup_cons.mpr ⟨?_, hnodup⟩⟩
  intro hmem
  obtain ⟨g, hg, heq⟩ := List.mem_map.mp hmem
  exact hnew g hg heq

/-- What R148 writes for VNEG is the field it stands for. -/
theorem parseField_negOne : parseField "k0=-1.0".toList = some (.k0, .float (fneg fOne)) := by decide +kernel

section
variable {args : List (List Char)} {fs : List Field}

theorem parseOperation_vmov (h : parseFields args = some fs) (r : Repeats) :
    parseOperation "VMOV" args r = parseOperation "VCOPY" args r := by
  simp only [parseOperation, h]
  rfl

theorem parseOperation_stop (h : parseFields args = some fs) (r : Repeats) :
    parseOperation "STOP" args r = parseOperation "HALT" args r := by
  simp only [parseOperation, h]
  rfl

theorem parseOperation_vneg (h : parseFields args = some fs) (hk0 : ∀ f ∈ fs, f.1 ≠ .k0) (r : Repeats) :
    parseOperation "VNEG" args r = parseOperation "VSCALE" ("k0=-1.0".toList :: args) r := by
  have hany : (fs.any fun f => f.1 == .k0) = false := by simpa using hk0
  simp only [parseOperation, h, parseFields_cons parseField_negOne h hk0, hany]
  rfl

end

/-- Settles O6: program P1 is assembled by evaluation, each pseudo-instruction read as its expansion. -/
theorem assemblerMatchesTheWorkedProgram : Obligations.AssemblerMatchesTheWorkedProgram := by
  unfold Obligations.AssemblerMatchesTheWorkedProgram
  exact ⟨by decide +kernel, fun args fs r h =>
    ⟨parseOperation_vmov h r, parseOperation_stop h r, fun hk0 => parseOperation_vneg h hk0 r⟩⟩

end Sys2Proof.Machine
end

section
/-! PROOFS. A step that decodes (spec/60_exceptions.md R450, R453, R460). -/

namespace Sys2Proof.Machine

/-- With no latch set and a legal fetch, a running sequencer decodes (R450, R453, R454). -/
theorem sequencerAction_of_fetch {s : State} (hbusy : s.status.busy = true) (hsreset : s.sresetReq = false)
    (habort : s.abortReq = false) (hlegal : FetchLegal s) : sequencerAction s = decodeAction s := by
  obtain ⟨haligned, hrange⟩ := hlegal
  have hok : firstFault (fetchChecks s) = none := by simp [firstFault_eq_none_iff, fetchChecks, haligned, hrange]
  rw [sequencerAction, hbusy, hsreset, habort, hok]
  rfl

theorem decodeAction_of_command {s : State} {i : Instr} (h : decode (fetchDesc s) = .command i) :
    (decodeAction s).outcome = afterCommand (exec i s) := by
  rw [decodeAction, h, Action.outcome]

theorem atBoundary_of_busy {s : State} (h : s.status.busy = true) : atBoundary s = s := by
  rw [atBoundary, if_pos h]

theorem atBoundary_of_noLatch {s : State} (habort : s.abortReq = false) (hsreset : s.sresetReq = false) :
    atBoundary s = s := by
  have hend : endRun s = s := by
    calc endRun s = { s with abortReq := false } := by rw [endRun, if_neg (by simp [hsreset])]
      _ = s := by rw [← habort]
  rw [atBoundary, hend, ite_self]

theorem stopWith_faults {s : State} (c : Cause) (v : Word) (hsreset : s.sresetReq = false) :
    Faults (stopWith c v s).outcome c v s := by
  refine ⟨takeFault c v s, ?_, takeFault_entered c v s⟩
  rw [stopWith, Action.outcome, atBoundary_of_noLatch (takeFault_abortReq c v s) hsreset]

/-- Settles O7: past the host's slot and the fetch, a step is what decoding asks for. -/
theorem stepRunsDecodedInstruction : Obligations.StepRunsDecodedInstruction := by
  unfold Obligations.StepRunsDecodedInstruction
  refine ⟨fun s mv rest => step_eq_outcome _, fun s ⟨hbusy, hsreset, habort, hinputs⟩ hlegal => ?_⟩
  have hstep : step s = (decodeAction s).outcome := by
    rw [step_of_noInputs hinputs, sequencerAction_of_fetch hbusy hsreset habort hlegal]
  refine ⟨fun i hdecode => ?_, fun w hdecode => ?_, fun k hdecode => ?_⟩
  · have hrun : step s = afterCommand (exec i s) := hstep.trans (decodeAction_of_command hdecode)
    refine ⟨hrun, fun t hexec hrunning => ?_, fun t hexec _ hnoAbort hnoSreset => ?_, fun rest => ?_⟩
    · rw [hrun, hexec, afterCommand, atBoundary_of_busy hrunning]
    · rw [hrun, hexec, afterCommand, atBoundary_of_noLatch hnoAbort hnoSreset]
    · calc step { s with inputs := none :: rest }
        _ = (sequencerAction { s with inputs := rest }).outcome := step_eq_outcome _
        _ = (decodeAction { s with inputs := rest }).outcome :=
          congrArg Action.outcome (sequencerAction_of_fetch hbusy hsreset habort hlegal)
        _ = afterCommand (exec i { s with inputs := rest }) := decodeAction_of_command hdecode
  · rw [hstep, decodeAction, hdecode]
    exact stopWith_faults _ _ hsreset
  · rw [hstep, decodeAction, hdecode]
    exact stopWith_faults _ _ hsreset

end Sys2Proof.Machine
end

section
/-! PROOFS. The control commands with exactly their effects (spec/40_control.md R200-R206), and the two ways every
command ends: it completes, or it enters a fault of its operands and leaves the rest as it was (spec/60_exceptions.md
R456, R457, R460). -/

namespace Sys2Proof.Machine

/-! ## The control commands -/

/-- R205's two cases of the counter as one decrement that stops at 0. -/
theorem loopEffect_counter (a : Word) (s : State) :
    loopEffect a s = { s with
      lc := BitVec.ofNat 32 (s.lc.toNat - 1)
      cp := if 2 ≤ s.lc.toNat then a else s.cp + 64#32 } := by
  unfold loopEffect
  split
  · next hzero => simp [advance, hzero]
  · next hzero =>
    have hpred : s.lc - 1#32 = BitVec.ofNat 32 (s.lc.toNat - 1) := by bv_omega
    split
    · next hlast => rw [if_neg (by bv_omega), ← hpred, advance]
    · next hmore => rw [if_pos (by bv_omega), ← hpred]

/-- Settles O24: a control command has no check, and its effect is its rule's. -/
theorem controlCommandsComplete : Obligations.ControlCommandsComplete := by
  unfold Obligations.ControlCommandsComplete
  refine fun s => ⟨rfl, rfl, fun a => rfl, fun n => rfl, fun a => ?_, rfl⟩
  calc exec (.loop a) s = .next (retire (loopEffect a s)) := rfl
    _ = _ := by rw [loopEffect_counter, retire]

/-! ## The causes of a command's checks (R456) -/

/-- The causes a command can fault with; the others of R451 are those of the fetch and of decoding. -/
def OperandCause (c : Cause) : Prop :=
  c = .badUnit ∨ c = .unconfigured ∨ c = .badField ∨ c = .operandMisaligned ∨ c = .operandRange

/-- Every check of the list is one of a command's operands. -/
def OperandChecks (cs : List Check) : Prop := ∀ c ∈ cs, OperandCause c.cause

@[simp] theorem operandChecks_nil : OperandChecks [] := by simp [OperandChecks]

@[simp] theorem operandChecks_cons (c : Check) (cs : List Check) :
    OperandChecks (c :: cs) ↔ OperandCause c.cause ∧ OperandChecks cs := by
  simp [OperandChecks]

@[simp] theorem operandChecks_append (cs ds : List Check) :
    OperandChecks (cs ++ ds) ↔ OperandChecks cs ∧ OperandChecks ds := by
  simp [OperandChecks, or_imp, forall_and]

@[simp] theorem operandChecks_regionChecks (rs : List Region) : OperandChecks (regionChecks rs) := by
  simp [OperandChecks, OperandCause, regionChecks, or_imp, forall_and]

/-! ## Completion or fault -/

/-- `t` is past one more command than `s` and in no fault that `s` was not in (R202). -/
structure Retires (s t : State) : Prop where
  retired : t.retired = s.retired + 1#64
  cause : t.cause = s.cause
  faultCp : t.faultCp = s.faultCp
  faultInfo : t.faultInfo = s.faultInfo
  statusFault : t.status.fault = s.status.fault
  pendingFault : t.irqPend.fault = s.irqPend.fault
  abortReq : t.abortReq = s.abortReq

theorem Completed.retires {s t : State} (h : Completed s t) : Retires s t where
  retired := h.retired
  cause := h.control.cause
  faultCp := h.control.faultCp
  faultInfo := h.control.faultInfo
  statusFault := by rw [h.control.status]
  pendingFault := by rw [h.control.irqPend]
  abortReq := h.control.abortReq

/-- The form of a command: checks of its operands, made before anything is written, and past them the completed state
`t`. -/
inductive CheckedForm (i : Instr) (s : State) : Prop
  | mk (cs : List Check) (t : State) (hexec : exec i s = checked s cs t) (hchecks : OperandChecks cs)
    (hretires : Retires s t)

/-- A command without checks. -/
theorem CheckedForm.of_control {i : Instr} {s t : State} (hexec : exec i s = checked s [] t) (hretires : Retires s t) :
    CheckedForm i s :=
  .mk [] t hexec operandChecks_nil hretires

/-- A command that writes DMEM, LAST_COUNT and the unit banks only. -/
theorem CheckedForm.of_command {i : Instr} {s e : State} {cs : List Check} {w : UnitWrite}
    (hexec : exec i s = command s cs e) (hchecks : OperandChecks cs) (he : WritesOnly w s e) : CheckedForm i s :=
  .mk cs (complete e) hexec hchecks he.completed.retires

/-- Every command has the form. -/
theorem exec_checkedForm (i : Instr) (s : State) : CheckedForm i s := by
  have hstores (m : Memory) : WritesOnly .nothing s (s.setDmem m) := (WritesOnly.apply .nothing s).setDmem m
  cases i with
  | nop | halt | jump | lset | signal => exact .of_control rfl ⟨rfl, rfl, rfl, rfl, rfl, rfl, rfl⟩
  | loop a => exact .of_control rfl (by rw [loopEffect_counter]; exact ⟨rfl, rfl, rfl, rfl, rfl, rfl, rfl⟩)
  | vadd | vsub | vmul | vdiv | vscale | vconj | vmag | vsqmag | vpolar | vrect | vclear | vcopy | vnormsqr | vnorm
  | vpeak | vpeakpwr => exact .of_command rfl (operandChecks_regionChecks _) (hstores _)
  | firGenlp | firGenhp | firGenbs | firGenbp | firInvert | firReverse =>
    exact .of_command rfl (by simp [genChecks, genChecks2, OperandCause]) (hstores _)
  | dlTap | dlMac => exact .of_command rfl (by simp [dlChecks, OperandCause]) (hstores _)
  | vdecim | chInfo => exact .of_command rfl (by simp [OperandCause]) ((hstores _).setCount _)
  | dlCfg | dlPush => exact .of_command rfl (by simp [dlChecks, OperandCause]) (.apply (.dl _ _) s)
  | hbCfg => exact .of_command rfl (by simp [OperandCause, apply_ite OperandChecks]) (.apply (.hb _ _) s)
  | hbRun =>
    exact .of_command rfl (by simp [OperandCause]) (((WritesOnly.apply (.hb _ _) s).setDmem _).setCount _)
  | chBuild | chProc =>
    exact .of_command rfl (by simp [OperandCause]) (((WritesOnly.apply (.ch _ _) s).setDmem _).setCount _)
  | firCfg => exact .of_command rfl (by simp [OperandCause]) (.apply (.fir _ _) s)
  | firRun =>
    refine .mk (firRunChecks _ _ _ _ ++ _) _ rfl (by simp [firRunChecks, OperandCause]) ?_
    split
    · exact ((WritesOnly.apply (.dl _ _) s).setDmem _).completed.retires
    · exact ((WritesOnly.apply (.fir _ _) s).setDmem _).completed.retires
  | iirCfg | iirClr => exact .of_command rfl (by simp [iirChecks, OperandCause]) (.apply (.iir _ _) s)
  | iirRun =>
    exact .of_command rfl (by simp [iirChecks, OperandCause]) ((WritesOnly.apply (.iir _ _) s).setDmem _)
  | gzCfg => exact .of_command rfl (by simp [OperandCause]) (.apply (.gz _ _) s)
  | gzRun =>
    exact .of_command rfl (by simp [OperandCause]) (((WritesOnly.apply (.gz _ _) s).setDmem _).setCount _)
  | ncoCfg | ncoFreq => exact .of_command rfl (by simp [ncoChecks, OperandCause]) (.apply (.nco _ _) s)
  | ncoMix =>
    exact .of_command rfl (by simp [ncoChecks, OperandCause]) ((WritesOnly.apply (.nco _ _) s).setDmem _)

/-- Settles O11: where every check passes the command completes, else it enters the fault of a failing check. -/
theorem commandsCompleteOrFaultPrecisely : Obligations.CommandsCompleteOrFaultPrecisely := by
  unfold Obligations.CommandsCompleteOrFaultPrecisely
  intro i s
  obtain ⟨cs, e, hexec, hchecks, hretires⟩ := exec_checkedForm i s
  rcases checked_cases s e cs with ⟨-, hdone⟩ | ⟨k, hk, -, -, hfault⟩
  · obtain ⟨hretired, hcause, hfaultCp, hinfo, hstatus, hpending, habort⟩ := hretires
    exact ⟨e, hexec.trans hdone, .inl ⟨hretired, hcause, hfaultCp, hinfo, hstatus, hpending, habort⟩⟩
  · exact ⟨_, hexec.trans hfault, .inr ⟨k.cause, k.info, takeFault_entered k.cause k.info s, hchecks k hk⟩⟩

end Sys2Proof.Machine
end

section
/-! PROOFS. VCLEAR, VDECIM and the four reductions (spec/41_complex_arith.md R234, R236, R237, R240-R243), and the
guards of division and phase at zero (R222, R223). -/

namespace Sys2Proof.Machine

/-! ## VCLEAR (R234) -/

/-- A little-endian integer that reads 0 stands in zero bytes. -/
theorem readByte_of_memRead_eq_zero {m : Memory} {a n : Nat} (h : memRead m a n = 0) {x : Nat} (hlo : a ≤ x)
    (hhi : x < a + n) : readByte m x = 0#8 := by
  induction n generalizing a with
  | zero => exact absurd hhi hlo.not_gt
  | succ n ih =>
    rw [memRead] at h
    by_cases hx : x = a
    · exact hx ▸ BitVec.eq_of_toNat_eq (Nat.eq_zero_of_add_eq_zero_right h)
    · exact ih (a := a + 1) (by omega) (by omega) (by omega)

theorem readByte_of_rdR_eq_zero {m : Memory} {a x : Nat} (h : rdR m a = 0#64) (hlo : a ≤ x) (hhi : x < a + 8) :
    readByte m x = 0#8 := by
  refine readByte_of_memRead_eq_zero (Nat.eq_zero_of_dvd_of_lt ?_ (memRead_lt m a 8)) hlo hhi
  exact Nat.dvd_of_mod_eq_zero (congrArg BitVec.toNat h)

theorem readByte_of_rdC_eq_zero {m : Memory} {a x : Nat} (h : rdC m a = Cpx.zero) (hlo : a ≤ x) (hhi : x < a + 16) :
    readByte m x = 0#8 := by
  obtain ⟨hre, him⟩ := Cpx.mk.inj h
  by_cases hx : x < a + 8
  · exact readByte_of_rdR_eq_zero hre hlo hx
  · exact readByte_of_rdR_eq_zero him (by omega) (by omega)

theorem vclear_completes {s : State} {d n : Word} (hwf : s.dmem.wf = true) (hd : LegalCpxs d n.toNat) :
    ∃ t, exec (.vclear d n) s = .next t ∧
      (∀ x, d.toNat ≤ x → x < d.toNat + 16 * n.toNat → readByte t.dmem x = 0#8) ∧
      KeptOutside s t d.toNat (16 * n.toNat) ∧ Completed s t ∧ SameUnits s t ∧ t.lastCount = s.lastCount := by
  have hok := regionChecks_ok (rs := [cpxRegion d n.toNat]) (by simpa using (cpxRegion_ok_iff d _).mpr hd)
  obtain ⟨t, ht, hzero, hkept, hdone⟩ := storeCpxs_completes d (List.replicate n.toNat Cpx.zero) hwf hok
  simp only [List.length_replicate, List.getElem_replicate] at hzero hkept
  refine ⟨t, ht, fun x hlo hhi => ?_, hkept, hdone⟩
  exact readByte_of_rdC_eq_zero (hzero ((x - d.toNat) / 16) (by omega)) (by omega) (by omega)

/-! ## VDECIM (R236) -/

@[simp] theorem strided_length (m : Memory) (a stride q : Nat) : (strided m a stride q).length = q := by simp [strided]

theorem strided_getElem (m : Memory) (a stride q : Nat) {k : Nat} (hk : k < (strided m a stride q).length) :
    (strided m a stride q)[k] = rdC m (a + 16 * (k * stride)) := by
  simp [strided]

theorem vdecim_completes {s : State} {a d n m : Word} (hwf : s.dmem.wf = true) (hm : m ≠ 0)
    (ha : LegalCpxs a n.toNat) (hd : LegalCpxs d (n.toNat / m.toNat)) :
    ∃ t, exec (.vdecim a d n m) s = .next t ∧
      (∀ k < n.toNat / m.toNat, rdC t.dmem (d.toNat + 16 * k) = rdC s.dmem (a.toNat + 16 * (k * m.toNat))) ∧
      KeptOutside s t d.toNat (16 * (n.toNat / m.toNat)) ∧ Completed s t ∧ SameUnits s t ∧
      t.lastCount.toNat = n.toNat / m.toNat := by
  have hfield : (fieldCheck (m.toNat != 0) 5).ok = true := bne_iff_ne.mpr fun h => hm (BitVec.eq_of_toNat_eq h)
  have hregions := regionChecks_ok (rs := [cpxRegion a n.toNat, cpxRegion d (n.toNat / m.toNat)])
    (by simpa using ⟨(cpxRegion_ok_iff a _).mpr ha, (cpxRegion_ok_iff d _).mpr hd⟩)
  have hwrites := ((WritesOnly.apply .nothing s).setDmem
    (writeCpxs s.dmem d.toNat (strided s.dmem a.toNat m.toNat (n.toNat / m.toNat)))).setCount (n.toNat / m.toNat)
  refine ⟨_, command_of_ok (List.forall_mem_cons.mpr ⟨hfield, hregions⟩), fun k hk => ?_, ?_, hwrites.completed,
    { hwrites.units with }, ?_⟩
  · rw [← strided_getElem s.dmem a.toNat m.toNat (n.toNat / m.toNat) (by simpa using hk)]
    exact rdC_writeCpxs hwf _ _ _
  · simpa using keptOutside_writeCpxs hwf d.toNat (strided s.dmem a.toNat m.toNat (n.toNat / m.toNat)) rfl
  · exact Nat.mod_eq_of_lt ((Nat.div_le_self _ _).trans_lt n.isLt)

/-- Settles O27, command by command. -/
theorem clearAndDecimateComplete : Obligations.ClearAndDecimateComplete := by
  unfold Obligations.ClearAndDecimateComplete
  exact ⟨fun _ _ _ hwf hd => vclear_completes hwf hd, fun _ _ _ _ _ hwf hm ha hd => vdecim_completes hwf hm ha hd⟩

/-! ## The reductions (R237, R240-R243) -/

/-- R237 for any reduction that gives `+0.0` of the empty buffer. -/
theorem reduction_completes (f : List Cpx → F64) (hempty : f [] = fZero) {s : State} {a d n : Word}
    (hwf : s.dmem.wf = true) (ha : LegalCpxs a n.toNat) (hd : LegalReals d 1) :
    ∃ t, reduction f a d n s = .next t ∧ rdR t.dmem d.toNat = f (readCpxs s.dmem a.toNat n.toNat) ∧
      (n = 0 → rdR t.dmem d.toNat = 0#64) ∧ KeptOutside s t d.toNat 8 ∧ Completed s t ∧ SameUnits s t ∧
      t.lastCount = s.lastCount := by
  have hok := regionChecks_ok (rs := [cpxRegion a n.toNat, realRegion d 1])
    (by simpa using ⟨(cpxRegion_ok_iff a _).mpr ha, (realRegion_ok_iff d _).mpr hd⟩)
  obtain ⟨hdone, hunits, hcount, hdmem⟩ :=
    complete_setDmem s (wrR s.dmem d.toNat (f (readCpxs s.dmem a.toNat n.toNat)))
  have hvalue := rdR_wrR hwf d.toNat (f (readCpxs s.dmem a.toNat n.toNat))
  rw [← hdmem] at hvalue
  refine ⟨_, command_of_ok hok, hvalue, ?_, keptOutside_wrR hwf _ _ hdmem, hdone, hunits, hcount⟩
  rintro rfl
  exact hvalue.trans hempty

/-- Settles O28: each of the four commands is `reduction` of its function. -/
theorem reductionsComplete : Obligations.ReductionsComplete := by
  unfold Obligations.ReductionsComplete
  intro s a d n hwf ha hd
  simp only [List.forall_mem_cons, List.not_mem_nil, false_implies, implies_true, and_true]
  exact ⟨reduction_completes normSqr rfl hwf ha hd, reduction_completes rmsNorm rfl hwf ha hd,
    reduction_completes (peakOf mag) rfl hwf ha hd, reduction_completes (peakOf sqmag) rfl hwf ha hd⟩

/-! ## Operations on zeros of either sign (R12) -/

theorem isZero_iff_intUnits {x : F64} : isZero x = true ↔ intUnits x = 0 := by
  rw [← Int.natAbs_eq_zero, natAbs_intUnits]
  refine ⟨fun h => ?_, fun h => ?_⟩
  · rw [unitsOf_eq_magUnits, beq_iff_eq.mp h, magUnits_zero]
  · by_contra hne
    exact (unitsOf_pos (Bool.eq_false_of_not_eq_true hne)).ne' h

theorem isFinite_of_isZero {x : F64} (h : isZero x = true) : isFinite x = true := by
  rw [isFinite_iff, beq_iff_eq.mp h]
  decide

/-- An exact result of zero is rounded to a zero: `+0.0` is nearer than anything else. -/
theorem Rounded.isZero {r : F64} {den : Nat} (h : Rounded r 0 den) (hden : 0 < den) : isZero r = true := by
  obtain ⟨-, hnear⟩ := h.finite (Nat.mul_pos overflowLimit_pos hden)
  obtain ⟨hle, -⟩ := hnear fZero isFinite_fZero
  rw [isZero_iff_intUnits]
  simpa [hden.ne'] using hle

section
variable {x y : F64}

theorem isZero_fmul (hx : isFinite x = true) (hy : isZero y = true) : isZero (fmul x y) = true := by
  have hround := fmul_rounded hx (isFinite_of_isZero hy)
  rw [isZero_iff_intUnits.mp hy, mul_zero] at hround
  exact hround.isZero (by positivity)

theorem isZero_fadd (hx : isZero x = true) (hy : isZero y = true) : isZero (fadd x y) = true := by
  have hround := fadd_rounded (isFinite_of_isZero hx) (isFinite_of_isZero hy)
  rw [isZero_iff_intUnits.mp hx, isZero_iff_intUnits.mp hy] at hround
  exact hround.isZero Nat.one_pos

theorem isZero_fsub (hx : isZero x = true) (hy : isZero y = true) : isZero (fsub x y) = true := by
  have hround := fsub_rounded (isFinite_of_isZero hx) (isFinite_of_isZero hy)
  rw [isZero_iff_intUnits.mp hx, isZero_iff_intUnits.mp hy] at hround
  exact hround.isZero Nat.one_pos

theorem isZero_fdiv (hx : isZero x = true) (hy : isFinite y = true) (hy0 : isZero y = false) :
    isZero (fdiv x y) = true := by
  have hround := fdiv_rounded (isFinite_of_isZero hx) hy hy0
  rw [isZero_iff_intUnits.mp hx, mul_zero, zero_mul] at hround
  exact hround.isZero (unitsOf_pos hy0)

theorem eq_of_isZero (h : isZero x = true) : x = 0#64 ∨ x = 0x8000000000000000#64 := by
  have hmag : x.toNat % 2 ^ 63 = 0 := beq_iff_eq.mp h
  bv_omega

theorem feq_fZero_of_isZero (h : isZero x = true) : feq x fZero = true := by
  rcases eq_of_isZero h with rfl | rfl <;> decide

/-- The square of a zero of either sign is `+0.0`. -/
theorem fmul_self_of_isZero (h : isZero x = true) : fmul x x = fZero := by
  rcases eq_of_isZero h with rfl | rfl <;> decide +kernel

end

/-! ## The guards (R222, R223) -/

theorem sqmag_of_isZero {z : Cpx} (hre : isZero z.re = true) (him : isZero z.im = true) : sqmag z = fZero := by
  rw [sqmag, fmul_self_of_isZero hre, fmul_self_of_isZero him]
  decide +kernel

theorem divDenominator_of_isZero {b : Cpx} (hre : isZero b.re = true) (him : isZero b.im = true) :
    divDenominator b = Config.eps := by
  have hsquares : fadd (fmul b.re b.re) (fmul b.im b.im) = fZero := sqmag_of_isZero hre him
  rw [divDenominator, hsquares]
  rfl

theorem polar_of_isZero {z : Cpx} (hre : isZero z.re = true) (him : isZero z.im = true) :
    polar z = ⟨fZero, fZero⟩ := by
  rw [polar, mag, sqmag_of_isZero hre him, arg, feq_fZero_of_isZero hre, feq_fZero_of_isZero him]
  rfl

/-- Settles O30: both numerators are sums of zero products, divided by EPS. -/
theorem zeroGuards : Obligations.ZeroGuards := by
  unfold Obligations.ZeroGuards
  intro a b hare haim hbre hbim
  have heps : isFinite Config.eps = true ∧ isZero Config.eps = false := by decide
  obtain ⟨hfin, hne⟩ := heps
  have hden := divDenominator_of_isZero hbre hbim
  refine ⟨?_, ?_, hden, polar_of_isZero hbre hbim⟩ <;> rw [cdiv, hden]
  · exact isZero_fdiv (isZero_fadd (isZero_fmul hare hbre) (isZero_fmul haim hbim)) hfin hne
  · exact isZero_fdiv (isZero_fsub (isZero_fmul haim hbre) (isZero_fmul hare hbim)) hfin hne

end Sys2Proof.Machine
end

section
/-! PROOFS. The delay line (spec/42_delay_line.md): its primitives R260-R262 and its commands R263-R266. -/

namespace Sys2Proof.Machine

/-! ## Samples counted from the head (R260, R261) -/

/-- The sample `k` places after the head of a line, whatever the delay. -/
def DelayLine.fromHead (l : DelayLine) (k : Nat) : Cpx := (l.ring[(l.last + k) % l.size]?).getD Cpx.zero

theorem nextDelay_eq_fromHead (l : DelayLine) (i : Nat) : nextDelay l i = l.fromHead (l.delay + i) := by
  rw [nextDelay, DelayLine.fromHead, Nat.add_assoc]

@[simp] theorem newSample_delay (l : DelayLine) (c : Cpx) : (newSample l c).delay = l.delay := rfl

theorem newSample_last_lt {l : DelayLine} (h : 1 ≤ l.size) (c : Cpx) : (newSample l c).last < l.size :=
  Nat.mod_lt _ h

/-- The place `k + 1` after the new head is the place `k` after the old one. -/
theorem newSample_place {l : DelayLine} (h : 1 ≤ l.size) (c : Cpx) (k : Nat) :
    ((newSample l c).last + (k + 1)) % l.size = (l.last + k) % l.size := calc
  ((l.last + l.size - 1) % l.size + (k + 1)) % l.size
      = (l.last + l.size - 1 + (k + 1)) % l.size := Nat.mod_add_mod _ _ _
  _ = (l.last + k + l.size) % l.size := by congr 1; omega
  _ = (l.last + k) % l.size := Nat.add_mod_right _ _

theorem add_mod_ne_self {head k n : Nat} (hhead : head < n) (hpos : 0 < k) (hk : k < n) : (head + k) % n ≠ head := by
  intro heq
  have hmod : head + k ≡ head + 0 [MOD n] := heq.trans (Nat.mod_eq_of_lt hhead).symm
  exact Nat.not_dvd_of_pos_of_lt hpos hk (Nat.modEq_zero_iff_dvd.mp (Nat.ModEq.add_left_cancel' head hmod))

theorem fromHead_newSample_zero {l : DelayLine} (h : 1 ≤ l.size) (c : Cpx) : (newSample l c).fromHead 0 = c := by
  have hlast := newSample_last_lt h c
  rw [DelayLine.fromHead, newSample_size, Nat.add_zero, Nat.mod_eq_of_lt hlast]
  simp only [newSample, List.getElem?_set_self (show (l.last + l.size - 1) % l.size < l.ring.length from hlast),
    Option.getD_some]

theorem fromHead_newSample_succ {l : DelayLine} (c : Cpx) {k : Nat} (hk : k + 1 < l.size) :
    (newSample l c).fromHead (k + 1) = l.fromHead k := by
  have hsize : 1 ≤ l.size := by omega
  have hne : (newSample l c).last ≠ (l.last + k) % l.size := by
    rw [← newSample_place hsize c k]
    exact (add_mod_ne_self (newSample_last_lt hsize c) k.succ_pos hk).symm
  have hring : (newSample l c).ring = l.ring.set (newSample l c).last c := rfl
  rw [DelayLine.fromHead, newSample_size, newSample_place hsize, hring, List.getElem?_set_ne hne, DelayLine.fromHead]

/-! ## Pushing a list of samples -/

@[simp] theorem foldl_newSample_size (l : DelayLine) (xs : List Cpx) : (xs.foldl newSample l).size = l.size := by
  induction xs generalizing l with
  | nil => rfl
  | cons x xs ih => exact (ih (newSample l x)).trans (newSample_size l x)

@[simp] theorem foldl_newSample_delay (l : DelayLine) (xs : List Cpx) : (xs.foldl newSample l).delay = l.delay := by
  induction xs generalizing l with
  | nil => rfl
  | cons x xs ih => exact ih (newSample l x)

theorem foldl_newSample_last_lt {l : DelayLine} (hsize : 1 ≤ l.size) (hlast : l.last < l.size) (xs : List Cpx) :
    (xs.foldl newSample l).last < l.size := by
  induction xs using List.reverseRecOn with
  | nil => exact hlast
  | append_singleton xs x _ =>
    rw [List.foldl_append]
    simpa using newSample_last_lt (l := xs.foldl newSample l) (by simpa using hsize) x

/-- By induction on the samples pushed last: each one moves the earlier samples one place away from the head. -/
theorem fromHead_foldl_newSample (l : DelayLine) (xs : List Cpx) {k : Nat} (hk : k < xs.length) (hsize : k < l.size) :
    (xs.foldl newSample l).fromHead k = xs[xs.length - 1 - k] := by
  induction xs using List.reverseRecOn generalizing k with
  | nil => simp at hk
  | append_singleton xs x ih =>
    rw [List.foldl_append, List.foldl_cons, List.foldl_nil]
    cases k with
    | zero =>
      rw [fromHead_newSample_zero (by rw [foldl_newSample_size]; omega)]
      simp
    | succ k =>
      have hlen : k < xs.length := by simpa using hk
      have hindex : (xs ++ [x]).length - 1 - (k + 1) = xs.length - 1 - k := by
        rw [List.length_append, List.length_singleton]
        omega
      simp only [hindex]
      rw [fromHead_newSample_succ x (by rwa [foldl_newSample_size]), ih hlen (by omega), List.getElem_append_left]

theorem ring_getElem?_eq_nextDelay {l : DelayLine} (h : 1 ≤ l.size) (i : Nat) :
    l.ring[(l.last + l.delay + i) % l.size]? = some (nextDelay l i) := by
  have hlt : (l.last + l.delay + i) % l.size < l.ring.length := Nat.mod_lt _ h
  rw [nextDelay, List.getElem?_eq_getElem hlt, Option.getD_some]

/-- R268: an index wraps modulo the size. -/
theorem nextDelay_mod (l : DelayLine) (i : Nat) : nextDelay l (i % l.size) = nextDelay l i := by
  rw [nextDelay, nextDelay, Nat.add_mod_mod]

/-- Settles O36: counted from the head, a push moves every sample one place on, so the line holds the last samples in
the reverse of their order. -/
theorem delayLineIsAFifo : Obligations.DelayLineIsAFifo := by
  unfold Obligations.DelayLineIsAFifo
  intro l xs hsize hlast
  refine ⟨fun k h hdelay hk => ?_, fun i => ⟨ring_getElem?_eq_nextDelay hsize i, (nextDelay_mod l i).symm⟩,
    foldl_newSample_last_lt hsize hlast xs, foldl_newSample_size l xs⟩
  rw [nextDelay_eq_fromHead, foldl_newSample_delay, Nat.add_sub_cancel' hdelay, fromHead_foldl_newSample l xs h hk]

/-! ## Commands that write a line (R263, R264) -/

theorem onlyDl_of_units {s t : State} {j : Nat} {l : DelayLine} (h : SameUnits (s.setDl j l) t) : OnlyDl j s t where
  others k hk := (h.dlAt k).trans (dlAt_setDl_ne s l hk)
  hb := h.hb
  ch := h.ch
  fir := h.fir
  iir := h.iir
  gz := h.gz
  nco := h.nco

theorem dlChecks_ok {u : Nib} {s : State} (hu : u.toNat < Config.dlUnits) (hcfg : (s.dlAt u.toNat).cfg = true) :
    ∀ c ∈ dlChecks u s, c.ok = true := by
  simp [dlChecks, hu, hcfg]

/-- A command whose checks pass and whose effect is a write of line `j` leaves the new line there, and writes no other
unit, no byte and no register but `CP` and `RETIRED`. -/
theorem setDl_completes {s : State} {cs : List Check} {j : Nat} (l : DelayLine) (hj : j < Config.dlUnits)
    (hok : ∀ c ∈ cs, c.ok = true) :
    ∃ t, command s cs (s.setDl j l) = .next t ∧ t.dlAt j = l ∧ OnlyDl j s t ∧ KeptDmem s t ∧ Completed s t ∧
      t.lastCount = s.lastCount := by
  obtain ⟨hunits, hdmem, hdone, hcount⟩ := complete_unitWrite s (.dl j l)
  exact ⟨_, command_of_ok hok, (hunits.dlAt j).trans (dlAt_setDl_same s j l hj), onlyDl_of_units hunits, hdmem, hdone,
    hcount⟩

/-- Settles O34: both commands write their line and nothing else. -/
theorem delayLineConfigureAndPush : Obligations.DelayLineConfigureAndPush := by
  unfold Obligations.DelayLineConfigureAndPush
  refine ⟨fun s u n m hu hlo hhi hm => setDl_completes _ hu ?_, fun s u a n hu hcfg ha => setDl_completes _ hu ?_⟩
  · simpa [hu, hm] using ⟨hlo, hhi⟩
  · exact List.forall_mem_append.mpr
      ⟨dlChecks_ok hu hcfg, regionChecks_ok (by simpa using (cpxRegion_ok_iff a n.toNat).mpr ha)⟩

/-! ## The multiply-accumulate (R262) and the commands that store one value (R265, R266) -/

/-- The recursion of R262 from the `k`-th sample on is a fold over the coefficients with their indices. -/
theorem macFrom_eq_foldl (part : Cpx → F64) (l : DelayLine) (k : Nat) (acc : F64) (cs : List F64) :
    macFrom part l k acc cs =
      ((List.range' k cs.length).zip cs).foldl (fun acc r => fadd acc (fmul (part (nextDelay l r.1)) r.2)) acc := by
  induction cs generalizing k acc with
  | nil => rfl
  | cons c cs ih => exact ih (k + 1) (fadd acc (fmul (part (nextDelay l k)) c))

/-- What a command leaves that stores one CPX at `d`, and does nothing else (R202). -/
theorem storeCpx_completes {s : State} {cs : List Check} (d : Word) (z : Cpx) (hwf : s.dmem.wf = true)
    (hok : ∀ c ∈ cs, c.ok = true) :
    ∃ t, command s cs (s.setDmem (wrC s.dmem d.toNat z)) = .next t ∧ rdC t.dmem d.toNat = z ∧
      KeptOutside s t d.toNat 16 ∧ SameUnits s t ∧ Completed s t ∧ t.lastCount = s.lastCount := by
  obtain ⟨t, ht, hvalue, hkept, hdone, hunits, hcount⟩ := storeCpxs_completes d [z] hwf hok
  exact ⟨t, ht, hvalue 0 Nat.one_pos, hkept, hunits, hdone, hcount⟩

/-- Settles O35: the sum is a fold over the indexed coefficients, and both commands store one CPX. -/
theorem delayLineTapAndMac : Obligations.DelayLineTapAndMac := by
  unfold Obligations.DelayLineTapAndMac
  refine ⟨fun l cs => ?_, fun s u d hwf hu hcfg hd => ⟨fun m => ?_, fun a n ha => ?_⟩⟩
  · rw [mac, macFrom_eq_foldl, macFrom_eq_foldl, List.range_eq_range']
    rfl
  · exact storeCpx_completes d _ hwf (List.forall_mem_append.mpr
      ⟨dlChecks_ok hu hcfg, regionChecks_ok (by simpa using (cpxRegion_ok_iff d 1).mpr hd)⟩)
  · exact storeCpx_completes d _ hwf (List.forall_mem_append.mpr ⟨dlChecks_ok hu hcfg,
      regionChecks_ok (by simpa using ⟨(realRegion_ok_iff a n.toNat).mpr ha, (cpxRegion_ok_iff d 1).mpr hd⟩)⟩)

end Sys2Proof.Machine
end

section
/-! PROOFS. The halfband stage (spec/43_halfband_cic3.md): the constraints on its design table R281, the outputs of its
passes R282-R287, passes given their input in two calls R288, and HB.RUN R291. -/

namespace Sys2Proof.Machine

/-! ## The design table (R281) -/

theorem orderKey_eq_zero_iff {x : F64} : orderKey x = 0 ↔ isZero x = true := by
  simp only [orderKey, isZero, beq_iff_eq]
  split <;> omega

/-- A value is its sign and its magnitude, so an order that is not zero fixes it. -/
theorem eq_of_orderKey_eq {x y : F64} (h : orderKey x = orderKey y) (hne : orderKey y ≠ 0) : x = y := by
  simp only [orderKey, signBit, magBits, decide_eq_true_eq] at h hne
  apply BitVec.eq_of_toNat_eq
  split_ifs at h hne <;> omega

theorem eq_fOne_of_feq {x : F64} (h : feq x fOne = true) : x = fOne := by
  simp only [feq, Bool.and_eq_true, decide_eq_true_eq] at h
  exact eq_of_orderKey_eq h.2 (by decide)

/-- The ascending sum of a unit impulse at `c`, over the first `n` taps. -/
theorem sumAscending_impulse (c n : Nat) :
    sumAscending ((List.range n).map fun k => if k = c then fOne else fZero) = if c < n then fOne else fZero := by
  induction n with
  | zero => rfl
  | succ n ih =>
    rw [sumAscending] at ih ⊢
    rw [List.range_succ, List.map_append, List.foldl_append, ih]
    rcases lt_trichotomy n c with hlt | rfl | hgt
    · have h : fadd fZero fZero = fZero := by decide +kernel
      simpa [hlt.ne, hlt.not_gt, Nat.not_lt.mpr (Nat.succ_le_of_lt hlt)] using h
    · have h : fadd fZero fOne = fOne := by decide +kernel
      simpa using h
    · have h : fadd fOne fZero = fOne := by decide +kernel
      simpa [hgt.ne', hgt, hgt.trans n.lt_succ_self] using h

/-- R281 (c): open taps of another sum give way to the unit impulse. -/
theorem sumAscending_hbCoeff {d : Fin 14} (hd : d.val ≠ 0) : sumAscending (hbCoeff d) = fOne := by
  obtain ⟨-, htaps, -⟩ := hbTaps_range d hd
  cases hgain : hbGainOk d with
  | true =>
    have hraw : hbCoeff d = (List.range (hbTaps d)).map (hbRawTap d) := by simp [hbCoeff, hgain]
    exact eq_fOne_of_feq (hraw ▸ hgain)
  | false =>
    have himpulse : hbCoeff d = (List.range (hbTaps d)).map (impulseTap d) := by simp [hbCoeff, hgain]
    have hcenter : (hbTaps d - 1) / 2 < hbTaps d := by omega
    exact himpulse ▸ (sumAscending_impulse _ _).trans (if_pos hcenter)

/-- R281 (b). -/
theorem hbCoeff_odd {d : Fin 14} {k : Nat} (hk : k < hbTaps d) (hodd : k % 2 = 1) (hcenter : k ≠ (hbTaps d - 1) / 2) :
    (hbCoeff d)[k]? = some 0#64 := by
  simp [hbCoeff, hk, hbRawTap, impulseTap, hodd, hcenter, fZero]

/-- R281 (d), which the edge of the CIC3 design meets too. -/
theorem wpass_ok (d : Fin 14) : isFinite (wpass d) = true ∧ flt fZero (wpass d) = true := by
  unfold wpass
  split
  · decide
  · dsimp only
    split
    · rename_i hvalue
      exact Bool.and_eq_true_iff.mp hvalue
    · decide

/-- Settles O41, constraint by constraint. -/
theorem designTableMeetsItsConstraints : Obligations.DesignTableMeetsItsConstraints := by
  unfold Obligations.DesignTableMeetsItsConstraints
  exact fun d hd => ⟨hbCoeff_length d, fun _ hk hodd hcenter => hbCoeff_odd hk hodd hcenter,
    sumAscending_hbCoeff (Nat.one_le_iff_ne_zero.mp hd), wpass_ok d⟩

/-! ## HB.RUN (R287, R291) -/

theorem passCount_le (form : PassForm) (st : PassState) (n : Nat) : passCount form st n ≤ n := by
  cases form with
  | cic3 =>
    rw [passCount]
    split <;> omega
  | fir =>
    rw [passCount]
    omega

theorem stageCount_le (form : PassForm) (decim : Decim) (p0 p1 : PassState) (n : Nat) :
    stageCount form decim p0 p1 n ≤ n := by
  cases decim with
  | two => exact passCount_le form p0 n
  | four => exact (passCount_le form p1 _).trans (passCount_le form p0 n)

/-- What a command leaves that writes stage `j`, stores a CPX array at `d` and reports its length (R202). -/
theorem storeStage_completes {s : State} {cs : List Check} {j q : Nat} (g : Halfband) (d : Word) {zs : List Cpx}
    (hwf : s.dmem.wf = true) (hj : j < Config.hbUnits) (hok : ∀ c ∈ cs, c.ok = true) (hlen : zs.length = q)
    (hq : q < 2 ^ 32) :
    ∃ t, command s cs (((s.setHb j g).setDmem (writeCpxs s.dmem d.toNat zs)).setCount q) = .next t ∧
      (t.hbAt j = g ∧ readCpxs t.dmem d.toNat q = zs ∧ KeptOutside s t d.toNat (16 * q) ∧
        t.lastCount.toNat = q) ∧
        OnlyHb j s t ∧ Completed s t := by
  subst hlen
  have hwrites := ((WritesOnly.apply (.hb j g) s).setDmem (writeCpxs s.dmem d.toNat zs)).setCount zs.length
  exact ⟨_, command_of_ok hok, ⟨hbAt_setHb_same s j g hj, readCpxs_writeCpxs hwf d.toNat zs,
    keptOutside_writeCpxs hwf d.toNat zs rfl, Nat.mod_eq_of_lt hq⟩, onlyHb_of_units { hwrites.units with },
      hwrites.completed⟩

/-- Settles O38: the count the region is checked with is the length of what the stage outputs. -/
theorem halfbandRun : Obligations.HalfbandRun := by
  unfold Obligations.HalfbandRun
  intro s u a d n hwf hu hcfg ha hd
  have hregions := regionChecks_ok (rs := [cpxRegion a n.toNat, cpxRegion d ((s.hbAt u.toNat).count n.toNat)])
    (by simpa using ⟨(cpxRegion_ok_iff a _).mpr ha, (cpxRegion_ok_iff d _).mpr hd⟩)
  exact storeStage_completes _ d hwf hu (List.forall_mem_append.mpr ⟨by simp [hu, hcfg], hregions⟩)
    (by rw [Halfband.apply_length, readCpxs_length]) ((stageCount_le _ _ _ _ _).trans_lt n.isLt)

/-! ## The outputs of a CIC3 pass (R285) -/

/-- The samples in a row that a CIC3 pass combines: its last pair, its pending sample and its input. -/
def PassState.samples (st : PassState) (x : List Cpx) : List Cpx :=
  [st.xEven, st.xOdd] ++ (if st.hasPend then [st.pend] else []) ++ x

/-- The CIC3 formula on four samples in a row, in each channel. -/
def cicOutput (e0 o0 e1 o1 : Cpx) : Cpx := ⟨cicFormula o1.re e0.re o0.re e1.re, cicFormula o1.im e0.im o0.im e1.im⟩

theorem cicStep_of_pending {st : PassState} (h : st.hasPend = true) (z : Cpx) :
    cicStep st z =
      ({ st with xOdd := z, xEven := st.pend, hasPend := false }, some (cicOutput st.xEven st.xOdd st.pend z)) := by
  simp [cicStep, h, cicOutput]

theorem cicStep_of_not_pending {st : PassState} (h : st.hasPend = false) (z : Cpx) :
    cicStep st z = ({ st with pend := z, hasPend := true }, none) := by
  simp [cicStep, h]

/-- By induction on the input: a sample that waits changes no sample in the row, one that completes a pair makes the
first output and drops the pair before it. -/
theorem cicpass_getElem? (st : PassState) (x : List Cpx) (m : Nat) (h : 2 * m + 3 < (st.samples x).length) :
    (cicpass st x).2[m]? =
      some (cicOutput (st.samples x)[2 * m] (st.samples x)[2 * m + 1] (st.samples x)[2 * m + 2]
        (st.samples x)[2 * m + 3]) := by
  induction x generalizing st m with
  | nil =>
    have hlen : (st.samples []).length ≤ 3 := by
      rw [PassState.samples]
      split <;> simp
    omega
  | cons z zs ih =>
    rw [cicpass]
    cases hpend : st.hasPend with
    | false =>
      have hsame : (cicStep st z).1.samples zs = st.samples (z :: zs) := by
        simp [cicStep_of_not_pending hpend, PassState.samples, hpend]
      have hout := ih (cicStep st z).1 m (hsame ▸ h)
      simp only [hsame] at hout
      simpa [cicStep_of_not_pending hpend] using hout
    | true =>
      have hrow : st.samples (z :: zs) = st.xEven :: st.xOdd :: (cicStep st z).1.samples zs := by
        simp [cicStep_of_pending hpend, PassState.samples, hpend]
      cases m with
      | zero => simp [cicStep_of_pending hpend, PassState.samples, hpend]
      | succ m =>
        have hlen : 2 * m + 3 < ((cicStep st z).1.samples zs).length := by
          rw [hrow, List.length_cons, List.length_cons] at h
          omega
        simpa [hrow, cicStep_of_pending hpend, Nat.mul_succ] using ih (cicStep st z).1 m hlen

/-! ## The outputs of a FIR pass (R282-R284) -/

/-- The output indices are every second one from the phase on. -/
theorem outputIndices_getElem? {ph m n : Nat} (hph : ph < 2) (hm : m < (n + 1 - ph) / 2) :
    (outputIndices ph n)[m]? = some (2 * m + ph) := by
  induction n with
  | zero => omega
  | succ n ih =>
    have hsucc : outputIndices ph (n + 1) = outputIndices ph n ++ [n].filter fun i => (ph + i) % 2 == 0 := by
      rw [outputIndices, List.range_succ, List.filter_append, outputIndices]
    rw [hsucc]
    by_cases hlast : m < (n + 1 - ph) / 2
    · rw [List.getElem?_append_left (by rwa [outputIndices_length hph]), ih hlast]
    · have hout : (ph + n) % 2 = 0 := by omega
      have hmn : m = (n + 1 - ph) / 2 := by omega
      have hkept : ([n].filter fun i => (ph + i) % 2 == 0) = [n] := by simp [hout]
      rw [List.getElem?_append_right (by rw [outputIndices_length hph, hmn]), outputIndices_length hph, hmn,
        Nat.sub_self, hkept]
      exact congrArg some (by omega)

/-- Where a list is numbered, each number stands by its own element. -/
theorem zip_range_eq_map {α : Type} (l : List α) (x : α) :
    (List.range l.length).zip l = (List.range l.length).map fun k => (k, (l[k]?).getD x) := by
  refine List.ext_getElem (by simp) fun k h _ => ?_
  have hk : k < l.length := by simpa using h
  simp [hk]

theorem feq_fZero (x : F64) : feq x fZero = isZero x := by
  cases h : isZero x with
  | true => exact feq_fZero_of_isZero h
  | false =>
    have hne : orderKey x ≠ orderKey fZero := fun hkey => by simp [orderKey_eq_zero_iff.mp hkey] at h
    simp [feq, hne]

/-- The `n` samples of `w` from `i` on, the window of an output at input `i`. -/
def windowAt (w : List Cpx) (i n : Nat) : List Cpx := (w.drop i).take n

theorem windowAt_getElem? {w : List Cpx} {i n j : Nat} (h : j < n) : (windowAt w i n)[j]? = w[i + j]? := by
  rw [windowAt, List.getElem?_take_of_lt h, List.getElem?_drop]

theorem windowAt_length {w : List Cpx} {i n : Nat} (h : i + n ≤ w.length) : (windowAt w i n).length = n := by
  rw [windowAt, List.length_take, List.length_drop]
  omega

/-- R283: a FIR sum reads its window alone, the newest sample by the first tap. -/
theorem firsum_eq_foldl (h : List F64) (w : List Cpx) (i : Nat) :
    firsum h w i = (List.range h.length).foldl
      (fun acc k =>
        let tap := (h[k]?).getD fZero
        let z := ((windowAt w i h.length)[h.length - 1 - k]?).getD Cpx.zero
        if !isZero tap || k == (h.length - 1) / 2 then ⟨fadd acc.re (fmul tap z.re), fadd acc.im (fmul tap z.im)⟩
        else acc)
      Cpx.zero := by
  refine List.foldl_ext _ _ _ fun acc k hk => ?_
  have hk : k < h.length := List.mem_range.mp hk
  simp only [feq_fZero]
  rw [windowAt_getElem? (by omega), show i + (h.length - 1) - k = i + (h.length - 1 - k) by omega]

theorem firsum_congr {h : List F64} {w w' : List Cpx} {i i' : Nat}
    (hwindow : windowAt w i h.length = windowAt w' i' h.length) : firsum h w i = firsum h w' i' := by
  rw [firsum_eq_foldl, firsum_eq_foldl, hwindow]

/-- R283 as the sum over the taps in use, each by its sample of the window. -/
theorem firsum_eq_foldl_used {h : List F64} {w : List Cpx} {i : Nat} (hw : i + h.length ≤ w.length) :
    firsum h w i =
      (((List.range h.length).zip (h.zip (windowAt w i h.length).reverse)).filter fun r =>
        !isZero r.2.1 || r.1 == (h.length - 1) / 2).foldl
          (fun acc r => ⟨fadd acc.re (fmul r.2.1 r.2.2.re), fadd acc.im (fmul r.2.1 r.2.2.im)⟩) Cpx.zero := by
  have hlen := windowAt_length hw
  have hzip : (h.zip (windowAt w i h.length).reverse).length = h.length := by simp [hlen]
  have hnumbered := zip_range_eq_map (h.zip (windowAt w i h.length).reverse) (fZero, Cpx.zero)
  rw [hzip] at hnumbered
  rw [hnumbered, List.foldl_filter, List.foldl_map, firsum_eq_foldl]
  refine List.foldl_ext _ _ _ fun acc k hk => ?_
  have hk : k < h.length := List.mem_range.mp hk
  have hnewest : h.length - 1 - k < h.length := by omega
  simp [hk, hlen, hnewest]

/-- R282. -/
theorem firpass_snd_of_le {h : List F64} (st : PassState) {x : List Cpx} (hx : h.length ≤ x.length) :
    (firpass h st x).2 = (outputIndices st.ph.val x.length).map (firsum h (st.hist ++ x)) := if_pos hx

theorem firpass_getElem? {h : List F64} (st : PassState) {x : List Cpx} (hx : h.length ≤ x.length) {m : Nat}
    (hm : m < (x.length + 1 - st.ph.val) / 2) :
    (firpass h st x).2[m]? = some (firsum h (st.hist ++ x) (2 * m + st.ph.val)) := by
  rw [firpass_snd_of_le st hx, List.getElem?_map, outputIndices_getElem? st.ph.isLt hm, Option.map_some]

/-- Settles O39. -/
theorem passOutputsAndCounts : Obligations.PassOutputsAndCounts := by
  unfold Obligations.PassOutputsAndCounts
  refine ⟨fun st x => ⟨cicpass_length st x, cicpass_getElem? st x⟩, fun h st x =>
    ⟨firOutputs_length h st x, fun hhist hx m hm => ?_⟩, fun form h p0 p1 x =>
      ⟨stageApply_length form h .two p0 p1 x, stageApply_length form h .four p0 p1 x⟩⟩
  rw [firpass_getElem? st hx hm, firsum_eq_foldl_used (by rw [List.length_append]; omega)]
  rfl

/-! ## Passes given their input in two calls (R288) -/

theorem cicpass_append (st : PassState) (x y : List Cpx) :
    cicpass st (x ++ y) =
      ((cicpass (cicpass st x).1 y).1, (cicpass st x).2 ++ (cicpass (cicpass st x).1 y).2) := by
  induction x generalizing st with
  | nil => rfl
  | cons z zs ih => simp only [List.cons_append, cicpass, ih, List.append_assoc]

/-- The phase after the first `a` inputs places the outputs of the others. -/
theorem outputIndices_add (ph a b : Nat) :
    outputIndices ph (a + b) = outputIndices ph a ++ (outputIndices ((ph + a) % 2) b).map (a + ·) := by
  rw [outputIndices, List.range_add, List.filter_append, List.filter_map]
  refine congrArg _ (congrArg _ (List.filter_congr fun i _ => ?_))
  simp only [Function.comp_apply, Nat.mod_add_mod, Nat.add_assoc]

/-- The state after the first call: the newest samples, and the phase moved on by their number. -/
theorem firpass_fst {h : List F64} {st : PassState} (hhist : st.hist.length = h.length - 1) (x : List Cpx) :
    (firpass h st x).1 =
      { st with hist := (st.hist ++ x).drop x.length, ph := Fin.ofNat 2 (st.ph.val + x.length) } := by
  rw [firpass, List.take_of_length_le (by simp [hhist])]

theorem firpass_append {h : List F64} {st : PassState} (hhist : st.hist.length = h.length - 1)
    {x y : List Cpx} (hx : h.length ≤ x.length) (hy : h.length ≤ y.length) :
    firpass h st (x ++ y) =
      ((firpass h (firpass h st x).1 y).1, (firpass h st x).2 ++ (firpass h (firpass h st x).1 y).2) := by
  have hrow : (st.hist ++ x).drop x.length ++ y = (st.hist ++ (x ++ y)).drop x.length := by
    rw [← List.append_assoc, List.drop_append_of_le_length (l₁ := st.hist ++ x) (by simp)]
  have hhist' : (firpass h st x).1.hist.length = h.length - 1 :=
    runPass_hist_length (form := .fir) hhist (fun _ => rfl) x
  refine Prod.ext ?_ ?_
  · rw [firpass_fst hhist, firpass_fst hhist', firpass_fst hhist]
    simp only [hrow, List.drop_drop, List.length_append, PassState.mk.injEq, and_true, Fin.ext_iff,
      Fin.val_ofNat, Nat.mod_add_mod, Nat.add_assoc]
  · have hxy : h.length ≤ (x ++ y).length := by rw [List.length_append]; omega
    rw [firpass_snd_of_le st hxy, firpass_snd_of_le st hx, firpass_snd_of_le _ hy, firpass_fst hhist]
    simp only [hrow, List.length_append, Fin.val_ofNat, outputIndices_add, List.map_append, List.map_map]
    refine congrArg₂ _ (List.map_congr_left fun i hi => firsum_congr ?_)
      (List.map_congr_left fun i _ => firsum_congr ?_)
    · -- An output of the first call: its window lies in the first input.
      have hi : i < x.length := List.mem_range.mp (List.mem_filter.mp hi).1
      have hlen : (st.hist ++ x).length = h.length - 1 + x.length := by rw [List.length_append, hhist]
      have hle : h.length ≤ ((st.hist ++ x).drop i).length := by rw [List.length_drop]; omega
      rw [windowAt, windowAt, ← List.append_assoc, List.drop_append_of_le_length (by omega),
        List.take_append_of_le_length hle]
    · -- An output of the second call: its history holds what its window takes from the first input.
      rw [windowAt, windowAt, List.drop_drop]

/-- R284: the inputs at the output indices, unfiltered. -/
theorem firpass_snd_of_short {h : List F64} (st : PassState) {x : List Cpx} (hx : x.length < h.length) :
    (firpass h st x).2 =
      (((List.range x.length).zip x).filter fun r => (st.ph.val + r.1) % 2 == 0).map Prod.snd := by
  rw [zip_range_eq_map x Cpx.zero, List.filter_map, List.map_map, firpass, firOutputs, if_neg (Nat.not_le.mpr hx)]
  rfl

/-- Settles O40. -/
theorem passesContinueAcrossCalls : Obligations.PassesContinueAcrossCalls := by
  unfold Obligations.PassesContinueAcrossCalls
  exact ⟨cicpass_append, fun _ _ _ _ _ hhist hx hy => firpass_append hhist hx hy,
    fun _ st _ hx => firpass_snd_of_short st hx⟩

end Sys2Proof.Machine
end

section
/-! PROOFS. The commands of the decimator chain (spec/44_decimator_chain.md): CH.PROC R316, CH.INFO R318 and CH.BUILD
R313 with the worked build R317, and the merge equivalence R320. -/

namespace Sys2Proof.Machine

/-! ## Commands that write a chain or list it (R202) -/

theorem onlyCh_of_units {s t : State} {j : Nat} {c : Chain} (h : SameUnits (s.setCh j c) t) : OnlyCh j s t where
  others k hk := (h.chAt k).trans (chAt_setCh_ne s c hk)
  dl := h.dl
  hb := h.hb
  fir := h.fir
  iir := h.iir
  gz := h.gz
  nco := h.nco

/-- What a command leaves that writes chain `j` and DMEM and reports a count. -/
theorem storeChain_completes {s : State} {cs : List Check} {j q : Nat} (c : Chain) (m : Memory)
    (hj : j < Config.chainUnits) (hok : ∀ k ∈ cs, k.ok = true) (hq : q < 2 ^ 32) :
    ∃ t, command s cs (((s.setCh j c).setDmem m).setCount q) = .next t ∧ t.dmem = m ∧ t.chAt j = c ∧
      t.lastCount.toNat = q ∧ OnlyCh j s t ∧ Completed s t := by
  have hwrites := ((WritesOnly.apply (.ch j c) s).setDmem m).setCount q
  exact ⟨_, command_of_ok hok, rfl, chAt_setCh_same s j c hj, Nat.mod_eq_of_lt hq,
    onlyCh_of_units { hwrites.units with }, hwrites.completed⟩

/-- What a command leaves that writes DMEM and reports a count. -/
theorem storeCount_completes {s : State} {cs : List Check} {q : Nat} (m : Memory) (hok : ∀ k ∈ cs, k.ok = true)
    (hq : q < 2 ^ 32) :
    ∃ t, command s cs ((s.setDmem m).setCount q) = .next t ∧ t.dmem = m ∧ t.lastCount.toNat = q ∧ SameUnits s t ∧
      Completed s t := by
  have hwrites := ((WritesOnly.apply .nothing s).setDmem m).setCount q
  exact ⟨_, command_of_ok hok, rfl, Nat.mod_eq_of_lt hq, { hwrites.units with }, hwrites.completed⟩

/-! ## CH.PROC (R316) -/

/-- No stage makes more samples than it is given. -/
theorem chainCount_le (gs : List Stage) (n : Nat) : chainCount gs n ≤ n := by
  induction gs generalizing n with
  | nil => exact le_rfl
  | cons g gs ih => exact (ih (g.count n)).trans (stageCount_le _ _ _ _ n)

theorem chProcChecks_ok {s : State} {u : Nib} {a d n : Word} (hu : u.toNat < Config.chainUnits)
    (hn : n.toNat ≤ Config.chMaxIn) (ha : LegalCpxs a n.toNat)
    (hd : LegalCpxs d (chainCount (s.chAt u.toNat).stages n.toNat)) :
    ∀ k ∈ [unitCheck u Config.chainUnits, fieldCheck (decide (n.toNat ≤ Config.chMaxIn)) 4] ++
      regionChecks [cpxRegion a n.toNat, cpxRegion d (chainCount (s.chAt u.toNat).stages n.toNat)], k.ok = true :=
  List.forall_mem_append.mpr ⟨by simp [hu, hn],
    regionChecks_ok (by simpa using ⟨(cpxRegion_ok_iff a _).mpr ha, (cpxRegion_ok_iff d _).mpr hd⟩)⟩

/-- Settles O45: the count the region is checked with is the length of what the stages output, and a chain without
stages outputs its input. -/
theorem chainProcess : Obligations.ChainProcess := by
  unfold Obligations.ChainProcess
  intro s u a d n hwf hu hn ha hd
  have hlen : (runStages (s.chAt u.toNat).stages (readCpxs s.dmem a.toNat n.toNat)).2.length =
      chainCount (s.chAt u.toNat).stages n.toNat := by rw [runStages_length, readCpxs_length]
  obtain ⟨t, ht, hdmem, hch, hcount, honly, hdone⟩ := storeChain_completes
    { s.chAt u.toNat with stages := (runStages (s.chAt u.toNat).stages (readCpxs s.dmem a.toNat n.toNat)).1 }
    (writeCpxs s.dmem d.toNat (runStages (s.chAt u.toNat).stages (readCpxs s.dmem a.toNat n.toNat)).2)
    hu (chProcChecks_ok hu hn ha hd) ((chainCount_le _ _).trans_lt n.isLt)
  have hkept := keptOutside_writeCpxs hwf d.toNat _ hdmem
  rw [hlen] at hkept
  refine ⟨t, ht, ⟨hch, ?_, hkept, hcount, fun hempty => ?_⟩, honly, hdone⟩
  · rw [hdmem, ← hlen, readCpxs_writeCpxs hwf]
  · rw [hempty] at hch hdmem ⊢
    refine ⟨rfl, by rw [hch, runStages, ← hempty], fun k hk => ?_⟩
    rw [hdmem, runStages, rdC_writeCpxs hwf _ _ (by rwa [readCpxs_length]), readCpxs_getElem]

/-! ## CH.INFO (R318) -/

/-- Settles O46: the record of a stage holds its fields, which its words are wide enough for. -/
theorem chainInfo : Obligations.ChainInfo := by
  unfold Obligations.ChainInfo
  intro s u d hwf hu hmax hd
  have hok : ∀ k ∈ unitCheck u Config.chainUnits :: regionChecks [rec16Region d (s.chAt u.toNat).nstages],
      k.ok = true :=
    List.forall_mem_cons.mpr
      ⟨decide_eq_true hu, regionChecks_ok (by simpa using (rec16Region_ok_iff d _).mpr hd)⟩
  obtain ⟨t, ht, hdmem, hcount, hunits, hdone⟩ := storeCount_completes (s := s)
    (writeStageRecords s.dmem d.toNat (s.chAt u.toNat).stages) hok (hmax.trans_lt (by decide))
  refine ⟨t, ht, fun k hk => ?_, hcount, fun x hx => ?_, hunits, hdone⟩
  · obtain ⟨hrate, hdesign, hdecim⟩ := read_writeStageRecords hwf d.toNat (s.chAt u.toNat).stages hk
    have hdesignLt : (s.chAt u.toNat).stages[k].design.val < 2 ^ 32 := (Fin.isLt _).trans (by decide)
    have hdecimLt : decimNat (s.chAt u.toNat).stages[k].decim < 2 ^ 32 := by
      cases (s.chAt u.toNat).stages[k].decim <;> decide
    rw [hdmem, hrate, hdesign, hdecim, Nat.mod_eq_of_lt hdesignLt, Nat.mod_eq_of_lt hdecimLt]
    exact ⟨rfl, rfl, rfl⟩
  · rw [hdmem, readByte_writeStageRecords_outside hwf hx]

/-! ## CH.BUILD (R313, R317) -/

theorem buildChain_nstages_le (n m p : Word) : (buildChain n m p).nstages ≤ 32 :=
  ((Chain.ok_iff _).mp (buildChain_ok n m p)).1

/-- CH.BUILD on legal operands completes with the chain built and its report stored. -/
theorem chBuild_completes (s : State) {u : Nib} {d n : Word} (m p : Word) (hu : u.toNat < Config.chainUnits)
    (hn : n ≠ 0#32) (hd : LegalRegion d 1 16 8) :
    ∃ t, exec (.chBuild u d n m p) s = .next t ∧ t.dmem = writeReport s.dmem d.toNat (buildChain n m p) ∧
      t.chAt u.toNat = buildChain n m p ∧ t.lastCount.toNat = (buildChain n m p).nstages ∧ OnlyCh u.toNat s t ∧
      Completed s t := by
  have hn' : n.toNat ≠ 0 := fun h => hn (BitVec.eq_of_toNat_eq h)
  have hregion := regionChecks_ok (rs := [rec16Region d 1]) (by simpa using (rec16Region_ok_iff d 1).mpr hd)
  exact storeChain_completes (buildChain n m p) _ hu
    (List.forall_mem_append.mpr ⟨by simpa using ⟨hu, hn'⟩, hregion⟩)
    ((buildChain_nstages_le n m p).trans_lt (by decide))

/-- A stage of the worked build, of the CIC3 design and with zero pass states. -/
def workedStage (decim : Decim) (rate : Nat) : Stage := { freshStage 0 (ofNatF rate) with decim := decim }

/-- R317: the chain built for 2048000 Hz, which the open design parameters have no part in: CIC3 comes first in the list
and qualifies at every rate reached. -/
theorem buildChain_worked : buildChain 2048000 1 0 =
    ⟨[workedStage .four 2048000, workedStage .four 512000, workedStage .four 128000, workedStage .two 32000],
      ofNatF 16000, false⟩ := by decide +kernel

/-- Settles O42: the report's fields are read back from its record, and the worked build is `buildChain_worked`. -/
theorem chainBuild : Obligations.ChainBuild := by
  unfold Obligations.ChainBuild
  refine ⟨fun s u d n m p hwf hu hn hd => ?_, ?_, fun s d hd => ?_⟩
  · obtain ⟨t, ht, hdmem, hch, hcount, honly, hdone⟩ := chBuild_completes s m p hu hn hd
    obtain ⟨hrate, hstages, hflags⟩ := read_wrRecord16 hwf d.toNat (buildChain n m p).achieved
      (buildChain n m p).nstages (if (buildChain n m p).trunc then 1 else 0)
    have hle := buildChain_nstages_le n m p
    rw [writeReport_eq] at hdmem
    rw [← hdmem] at hrate hstages hflags
    rw [Nat.mod_eq_of_lt (by omega)] at hstages
    rw [Nat.mod_eq_of_lt (by split <;> decide)] at hflags
    exact ⟨t, ht, hch, hrate, hstages, hflags, hcount,
      fun x hx => by rw [hdmem, readByte_wrRecord16_outside hwf hx], honly, hdone⟩
  · simp only [buildChain_worked]
    decide +kernel
  · obtain ⟨t, ht, -, hch, hcount, -, -⟩ := chBuild_completes s (u := 0) (n := 2048000) 1 0 (by decide) (by decide) hd
    rw [buildChain_worked] at hch hcount
    exact ⟨t, ht, BitVec.eq_of_toNat_eq hcount, congrArg Chain.nstages hch⟩

/-! ## Merge equivalence (R320) -/

/-- `g` decimates by 4, and `a` and `b` are its two passes as stages of their own. -/
structure Stage.SplitInto (g a b : Stage) : Prop where
  merged : g.decim = .four
  first : a.decim = .two
  second : b.decim = .two
  firstDesign : a.design = g.design
  secondDesign : b.design = g.design
  pass0 : a.pass0 = g.pass0
  pass1 : b.pass0 = g.pass1

theorem Stage.apply_two {g : Stage} (h : g.decim = .two) (x : List Cpx) :
    g.apply x = ({ g with pass0 := (runPass (formOf g.design) (hbCoeff g.design) g.pass0 x).1 },
      (runPass (formOf g.design) (hbCoeff g.design) g.pass0 x).2) := by
  rw [Stage.apply, h]
  rfl

theorem Stage.apply_four {g : Stage} (h : g.decim = .four) (x : List Cpx) :
    g.apply x =
      (let r0 := runPass (formOf g.design) (hbCoeff g.design) g.pass0 x
       let r1 := runPass (formOf g.design) (hbCoeff g.design) g.pass1 r0.2
       ({ g with pass0 := r0.1, pass1 := r1.1 }, r1.2)) := by
  rw [Stage.apply, h]
  rfl

/-- One call: the second stage is given the first one's output, as the second pass is given the first one's. -/
theorem Stage.SplitInto.apply {g a b : Stage} (h : g.SplitInto a b) (x : List Cpx) :
    (g.apply x).1.SplitInto (a.apply x).1 (b.apply (a.apply x).2).1 ∧ (g.apply x).2 = (b.apply (a.apply x).2).2 := by
  rw [Stage.apply_four h.merged, Stage.apply_two h.first, Stage.apply_two h.second, h.firstDesign, h.secondDesign,
    h.pass0, h.pass1]
  exact ⟨⟨h.merged, h.first, h.second, rfl, rfl, rfl, rfl⟩, rfl⟩

/-- Any calls, by induction on their list. -/
theorem Stage.SplitInto.feed {g a b : Stage} (h : g.SplitInto a b) (calls : List (List Cpx)) :
    ∃ g' a' b', g'.SplitInto a' b' ∧ (feedCalls [g] calls).1 = [g'] ∧
      (feedCalls [a, b] calls).1 = [a', b'] ∧
        (feedCalls [g] calls).2 = (feedCalls [a, b] calls).2 := by
  induction calls generalizing g a b with
  | nil => exact ⟨g, a, b, h, rfl, rfl, rfl⟩
  | cons x xs ih =>
    obtain ⟨hsplit, hout⟩ := h.apply x
    obtain ⟨g', a', b', hsplit', hmerged, htwo, houts⟩ := ih hsplit
    exact ⟨g', a', b', hsplit', hmerged, htwo, congrArg₂ List.cons hout houts⟩

/-- Settles O47: the stages stay split into each other over the calls. -/
theorem mergedStageEqualsTwoStages : Obligations.MergedStageEqualsTwoStages := by
  unfold Obligations.MergedStageEqualsTwoStages
  intro g a b calls hg ha hb hda hdb hp0 hp1
  obtain ⟨g', a', b', hsplit, hmerged, htwo, houts⟩ :=
    Stage.SplitInto.feed ⟨hg, ha, hb, hda, hdb, hp0, hp1⟩ calls
  refine ⟨houts, ?_⟩
  rw [hmerged, htwo]
  simp [hsplit.pass0, hsplit.pass1]

end Sys2Proof.Machine
end

section
/-! PROOFS. The chain CH.BUILD makes (spec/44_decimator_chain.md): its rates are exact R314 (a), and its stages follow
the selection R311 and the merging R312 until the builder stops R313, R314 (b)-(e). -/

namespace Sys2Proof.Machine

/-! ## Exact results -/

/-- An exact result that is a finite value is not changed by rounding. -/
theorem Rounded.exact {r z : F64} {num : Int} {den : Nat} (h : Rounded r num den) (hden : 0 < den)
    (hz : isFinite z = true) (hexact : intUnits z * den = num) : isFinite r = true ∧ intUnits r = intUnits z := by
  have hlimit : num.natAbs < overflowLimit * den := by
    rw [← hexact, Int.natAbs_mul, natAbs_intUnits, Int.natAbs_natCast]
    exact Nat.mul_lt_mul_of_pos_right (unitsOf_lt_overflowLimit hz) hden
  obtain ⟨hfin, hnear⟩ := h.finite hlimit
  obtain ⟨hle, -⟩ := hnear z hz
  rw [hexact, Int.sub_self, Int.natAbs_zero, Nat.le_zero, Int.natAbs_eq_zero, Int.sub_eq_zero, ← hexact] at hle
  exact ⟨hfin, Int.eq_of_mul_eq_mul_right (Int.natCast_ne_zero.mpr hden.ne') hle⟩

theorem mul_two_pow_mul_two_pow (n a b : Nat) : n * 2 ^ a * 2 ^ b = n * 2 ^ (a + b) := by
  rw [Nat.mul_assoc, ← pow_add]

/-- A number below `2^53`, scaled by a power of two in the range of the normal exponents, is a finite value: the one
with the significand shifted up to its 53 bits. -/
theorem exists_value_of_lt {n k : Nat} (hn : n < 2 ^ 53) (hlo : 52 ≤ k) (hhi : k ≤ 2000) :
    ∃ z, isFinite z = true ∧ intUnits z = ((n * 2 ^ k : Nat) : Int) := by
  by_cases hzero : n = 0
  · exact ⟨fZero, isFinite_fZero, by simp [hzero]⟩
  · have hlog : n.log2 < 53 := (Nat.log2_lt hzero).mpr hn
    have hge : 2 ^ 52 ≤ n * 2 ^ (52 - n.log2) := calc
      2 ^ 52 = 2 ^ n.log2 * 2 ^ (52 - n.log2) := by rw [← pow_add, Nat.add_sub_cancel' (by omega)]
      _ ≤ n * 2 ^ (52 - n.log2) := Nat.mul_le_mul_right _ (Nat.log2_self_le hzero)
    have hlt : n * 2 ^ (52 - n.log2) < 2 ^ 53 := calc
      n * 2 ^ (52 - n.log2) < 2 ^ (n.log2 + 1) * 2 ^ (52 - n.log2) :=
        Nat.mul_lt_mul_of_pos_right Nat.lt_log2_self (Nat.two_pow_pos _)
      _ = 2 ^ 53 := by rw [← pow_add]; congr 1; omega
    have hscale : n * 2 ^ (52 - n.log2) * 2 ^ (k - (52 - n.log2)) = n * 2 ^ k := by
      rw [mul_two_pow_mul_two_pow, Nat.add_sub_cancel' (by omega)]
    have hmag := magUnits_scaled (.inr hge) hlt.le (k := k - (52 - n.log2))
    rw [hscale] at hmag
    have hfin : (k - (52 - n.log2)) * 2 ^ 52 + n * 2 ^ (52 - n.log2) < infBits := by
      rw [infBits]
      omega
    have hbits : infBits < 2 ^ 63 := by decide
    refine ⟨packSign false ((k - (52 - n.log2)) * 2 ^ 52 + n * 2 ^ (52 - n.log2)), ?_, ?_⟩
    · exact isFinite_iff.mpr ((magBits_packSign false (hfin.trans hbits)).trans_lt hfin)
    · rw [intUnits_packSign false (hfin.trans hbits), hmag, withSign, if_neg Bool.false_ne_true]

/-! ## Rates (R314 (a)) -/

/-- The value is exactly `n / 2^h`. -/
structure HalvedRate (n h : Nat) (r : F64) : Prop where
  finite : isFinite r = true
  units : intUnits r = ((n * 2 ^ (1074 - h) : Nat) : Int)

theorem ofNatF_halvedRate {n : Nat} (hn : n < 2 ^ 53) : HalvedRate n 0 (ofNatF n) := by
  obtain ⟨z, hz, hunits⟩ := exists_value_of_lt (k := 1074 - 0) hn (by omega) (by omega)
  have hround : Rounded (ofNatF n) ((n * 2 ^ 1074 : Nat) : Int) 1 := roundUnits_rounded false _ Nat.one_pos
  obtain ⟨hfin, hexact⟩ := hround.exact Nat.one_pos hz (by rw [hunits, Nat.cast_one, mul_one])
  exact ⟨hfin, hexact.trans hunits⟩

/-- The smallest value is so far away that a rate is halved exactly. -/
theorem HalvedRate.fdiv_fTwo {n h : Nat} {r : F64} (hr : HalvedRate n h r) (hn : n < 2 ^ 53) (hh : h ≤ 1000) :
    HalvedRate n (h + 1) (fdiv r fTwo) := by
  have htwo : isFinite fTwo = true ∧ isZero fTwo = false ∧ signBit fTwo = false ∧ unitsOf fTwo = 2 ^ 1075 := by
    decide +kernel
  obtain ⟨hfin, hnonzero, hsign, hunits⟩ := htwo
  obtain ⟨z, hz, hzunits⟩ := exists_value_of_lt (k := 1074 - (h + 1)) hn (by omega) (by omega)
  have hround := fdiv_rounded hr.finite hfin hnonzero
  rw [hsign, if_neg Bool.false_ne_true, one_mul, hunits, hr.units] at hround
  have hhalf : n * 2 ^ (1074 - (h + 1)) * 2 ^ 1075 = n * 2 ^ (1074 - h) * 2 ^ 1074 := by
    rw [mul_two_pow_mul_two_pow, mul_two_pow_mul_two_pow, show 1074 - (h + 1) + 1075 = 1074 - h + 1074 by omega]
  obtain ⟨hrfin, hexact⟩ := hround.exact (by positivity) hz
    (by rw [hzunits, ← Nat.cast_mul, hhalf, Nat.cast_mul, Nat.cast_pow 2 1074, Nat.cast_ofNat])
  exact ⟨hrfin, hexact.trans hzunits⟩

theorem HalvedRate.unitsOf {n h : Nat} {r : F64} (hr : HalvedRate n h r) (hh : h ≤ 1000) :
    unitsOf r * 2 ^ h = n * 2 ^ 1074 := by
  rw [← natAbs_intUnits, hr.units, Int.natAbs_natCast, mul_two_pow_mul_two_pow, Nat.sub_add_cancel (by omega)]

theorem buildTarget_eq (p : Word) : buildTarget p = ofNatF (if p = 0 then 15000 else p.toNat) := by
  have hzero : p.toNat = 0 ↔ p = 0 := (BitVec.toNat_eq (x := p) (y := 0)).symm
  simp only [buildTarget, hzero]
  rfl

/-- R314 (e): `F(N) < 2^32` and `target >= 1`, so a rate halved 33 times does not meet the target. -/
theorem HalvedRate.not_target_le {n : Nat} {r : F64} (hr : HalvedRate n 33 r) (hn : n < 2 ^ 32) (p : Word) :
    fle (buildTarget p) r = false := by
  obtain ⟨t, hpos, hlt, htarget⟩ : ∃ t, 1 ≤ t ∧ t < 2 ^ 53 ∧ buildTarget p = ofNatF t := by
    rw [buildTarget]
    split
    · exact ⟨Config.minRate, by decide, by decide, rfl⟩
    · exact ⟨p.toNat, by omega, by omega, rfl⟩
  have hunits := (ofNatF_halvedRate hlt).units
  rw [← htarget] at hunits
  rw [Bool.eq_false_iff]
  intro hle
  obtain ⟨-, -, hle⟩ := (fle_iff _ _).mp hle
  rw [hunits, hr.units, Int.ofNat_le] at hle
  have hlow : 1 * 2 ^ (1074 - 0) ≤ t * 2 ^ (1074 - 0) := Nat.mul_le_mul_right _ hpos
  have hhigh : n * 2 ^ (1074 - 33) < 2 ^ 32 * 2 ^ (1074 - 33) := Nat.mul_lt_mul_of_pos_right hn (by positivity)
  have hpow : 2 ^ 32 * 2 ^ (1074 - 33) ≤ 1 * 2 ^ (1074 - 0) := by decide +kernel
  exact hpow.not_gt (hlow.trans_lt (hle.trans_lt hhigh))

/-! ## Stages that follow the selection (R311, R312) -/

/-- The rate a stage halves its input rate to, twice where it is merged. -/
def Stage.rateOut (g : Stage) : F64 :=
  if g.decim = .two then fdiv g.rateIn fTwo else fdiv (fdiv g.rateIn fTwo) fTwo

theorem Stage.rateOut_of_two {g : Stage} (h : g.decim = .two) : g.rateOut = fdiv g.rateIn fTwo := if_pos h

theorem Stage.rateOut_of_four {g : Stage} (h : g.decim = .four) : g.rateOut = fdiv (fdiv g.rateIn fTwo) fTwo :=
  if_neg (by rw [h]; decide)

/-- The stage is made of halvings at which the selection chose its design, and has zero pass states. -/
structure Stage.Selected (bw : F64) (g : Stage) : Prop where
  choice : chooseDesign bw g.rateIn = some g.design
  merged : g.decim = .four → chooseDesign bw (fdiv g.rateIn fTwo) = some g.design
  pass0 : g.pass0 = PassState.zero (hbTaps g.design - 1)
  pass1 : g.pass1 = PassState.zero (hbTaps g.design - 1)

/-- The stages, last first, take the rate `r0` to `r` by the selection, and where one could have been merged into the
one before it, it was. -/
inductive StagesTo (bw r0 : F64) : List Stage → F64 → Prop
  | start : StagesTo bw r0 [] r0
  | stage {gs : List Stage} {g : Stage} (before : StagesTo bw r0 gs g.rateIn) (selected : g.Selected bw)
      (unmerged : ∀ last ∈ gs.head?, last.decim = .two → g.design ≠ last.design) : StagesTo bw r0 (g :: gs) g.rateOut

/-- The halvings the stages make. -/
def halvings (gs : List Stage) : Nat := (gs.map fun g => (decimNat g.decim).log2).sum

theorem halvings_cons_of_two {g : Stage} (h : g.decim = .two) (gs : List Stage) :
    halvings (g :: gs) = halvings gs + 1 := by
  have hlog : (decimNat .two).log2 = 1 := by decide
  rw [halvings, List.map_cons, List.sum_cons, h, hlog, Nat.add_comm, halvings]

theorem halvings_cons_of_four {g : Stage} (h : g.decim = .four) (gs : List Stage) :
    halvings (g :: gs) = halvings gs + 2 := by
  have hlog : (decimNat .four).log2 = 2 := by decide
  rw [halvings, List.map_cons, List.sum_cons, h, hlog, Nat.add_comm, halvings]

theorem halvings_reverse (gs : List Stage) : halvings gs.reverse = halvings gs := by
  rw [halvings, List.map_reverse, List.sum_reverse, halvings]

theorem freshStage_selected {bw r : F64} {d : Fin 14} (h : chooseDesign bw r = some d) :
    (freshStage d r).Selected bw where
  choice := h
  merged := nofun
  pass0 := rfl
  pass1 := rfl

theorem halvings_appendStage (d : Fin 14) (r : F64) (gs : List Stage) :
    halvings (appendStage d r gs) = halvings gs + 1 := by
  cases gs with
  | nil => exact halvings_cons_of_two rfl []
  | cons last earlier =>
    rw [appendStage]
    split
    · rename_i hmerge
      obtain ⟨-, htwo⟩ := hmerge
      rw [halvings_cons_of_four rfl, halvings_cons_of_two htwo]
    · exact halvings_cons_of_two rfl _

section
variable {bw r0 r : F64} {gs : List Stage}

/-- R312: one more halving, merged into the last stage or a stage of its own. -/
theorem StagesTo.append (h : StagesTo bw r0 gs r) {d : Fin 14} (hd : chooseDesign bw r = some d) :
    StagesTo bw r0 (appendStage d r gs) (fdiv r fTwo) := by
  have hfresh := StagesTo.stage (g := freshStage d r) h (freshStage_selected hd)
  rw [Stage.rateOut_of_two rfl] at hfresh
  cases h with
  | start => exact hfresh (by simp)
  | @stage gs g before selected unmerged =>
    rw [appendStage]
    split
    · rename_i hmerge
      obtain ⟨rfl, htwo⟩ := hmerge
      rw [Stage.rateOut_of_two htwo] at hd ⊢
      have hmerged := StagesTo.stage (g := { g with decim := .four }) before
        { selected with merged := fun _ => hd } unmerged
      rwa [Stage.rateOut_of_four rfl] at hmerged
    · rename_i hkeep
      refine hfresh ?_
      rintro last hlast htwo rfl
      obtain rfl : g = last := by simpa using hlast
      exact hkeep ⟨rfl, htwo⟩

/-- R314 (a): the rate reached. -/
theorem StagesTo.halvedRate {n : Nat} (h : StagesTo bw (ofNatF n) gs r) (hn : n < 2 ^ 32)
    (hbound : halvings gs ≤ 1000) : HalvedRate n (halvings gs) r := by
  induction h with
  | start => exact ofNatF_halvedRate (by omega)
  | @stage gs g before selected unmerged ih =>
    cases hdecim : g.decim with
    | two =>
      rw [halvings_cons_of_two hdecim] at hbound ⊢
      rw [Stage.rateOut_of_two hdecim]
      exact (ih (by omega)).fdiv_fTwo (by omega) (by omega)
    | four =>
      rw [halvings_cons_of_four hdecim] at hbound ⊢
      rw [Stage.rateOut_of_four hdecim]
      exact ((ih (by omega)).fdiv_fTwo (by omega) (by omega)).fdiv_fTwo (by omega) (by omega)

/-- R314: each stage takes over the rate where the one before it leaves off. -/
theorem StagesTo.rates (h : StagesTo bw r0 gs r) :
    gs.reverse.map Stage.rateIn ++ [r] = r0 :: gs.reverse.map Stage.rateOut := by
  induction h with
  | start => rfl
  | stage before selected unmerged ih =>
    simp only [List.reverse_cons, List.map_append, List.map_cons, List.map_nil]
    rw [ih, List.cons_append]

theorem StagesTo.selected (h : StagesTo bw r0 gs r) : ∀ g ∈ gs, g.Selected bw := by
  induction h with
  | start => simp
  | stage before selected unmerged ih => exact List.forall_mem_cons.mpr ⟨selected, ih⟩

/-- R312: no stage that halves once has a stage of its own design after it. -/
theorem StagesTo.unmerged (h : StagesTo bw r0 gs r) :
    gs.reverse.IsChain fun last g => last.decim = .two → g.design ≠ last.design := by
  rw [List.isChain_reverse]
  induction h with
  | start => exact .nil
  | stage before selected unmerged ih => exact List.isChain_cons.mpr ⟨unmerged, ih⟩

end

/-! ## Where the builder stops (R313) -/

/-- What holds before every round of the builder's loop. -/
structure Built.Follows (bw target r0 : F64) (b : Built) : Prop where
  stages : StagesTo bw r0 b.revStages b.rate
  target_le : b.revStages ≠ [] → fle target b.rate = true

/-- What holds where the builder has stopped: another halving misses the target, or no design qualifies for it. -/
structure Built.Stopped (bw target : F64) (b : Built) : Prop where
  trunc : b.trunc = fle target (fdiv b.rate fTwo)
  noDesign : b.trunc = false ∨ chooseDesign bw b.rate = none

/-- The loop, by induction on its fuel, which is more than the halvings that meet the target. -/
theorem buildLoop_stops {bw target r0 : F64} (hmost : ∀ gs r, StagesTo bw r0 gs r → halvings gs = buildFuel →
    fle target (fdiv r fTwo) = false) (fuel : Nat) {b : Built} (h : b.Follows bw target r0)
    (htrunc : b.trunc = false) (hfuel : halvings b.revStages + fuel = buildFuel) :
    (buildLoop bw target fuel b).Follows bw target r0 ∧ (buildLoop bw target fuel b).Stopped bw target ∧
      halvings (buildLoop bw target fuel b).revStages ≤ buildFuel := by
  induction fuel generalizing b with
  | zero => exact ⟨h, ⟨htrunc.trans (hmost _ _ h.stages hfuel).symm, .inl htrunc⟩, hfuel.le⟩
  | succ fuel ih =>
    rw [buildLoop]
    split
    · rename_i hmeets
      split
      · rename_i hnone
        exact ⟨⟨h.stages, h.target_le⟩, ⟨hmeets.symm, .inr hnone⟩, by dsimp only; omega⟩
      · rename_i d hd
        exact ih ⟨h.stages.append hd, fun _ => hmeets⟩ rfl (by rw [halvings_appendStage]; omega)
    · rename_i hmisses
      exact ⟨h, ⟨htrunc.trans (Bool.eq_false_of_not_eq_true hmisses).symm, .inl htrunc⟩, by omega⟩

/-- The built chain, its stages last first. -/
theorem buildChain_built (n m p : Word) :
    ∃ b : Built, buildChain n m p = ⟨b.revStages.reverse, b.rate, b.trunc⟩ ∧
      b.Follows (ofNatF m.toNat) (buildTarget p) (ofNatF n.toNat) ∧ b.Stopped (ofNatF m.toNat) (buildTarget p) ∧
        halvings b.revStages ≤ 32 := by
  refine ⟨_, rfl, buildLoop_stops (fun gs r hstages hfuel => ?_) buildFuel ⟨.start, by simp⟩ rfl rfl⟩
  have hrate := hstages.halvedRate n.isLt (by rw [hfuel]; decide)
  rw [hfuel] at hrate
  exact (hrate.fdiv_fTwo (by omega) (by decide)).not_target_le n.isLt p

/-- Settles O43: the rate the stages take the input rate to. -/
theorem chainRateIsExact : Obligations.ChainRateIsExact := by
  unfold Obligations.ChainRateIsExact
  intro n m p _
  obtain ⟨b, hbuilt, hfollows, -, hmost⟩ := buildChain_built n m p
  have hrate := hfollows.stages.halvedRate n.isLt (by omega)
  have hunits := hrate.unitsOf (by omega)
  rw [← halvings_reverse, halvings] at hunits
  rw [hbuilt]
  exact ⟨hunits, hrate.finite⟩

/-- R311: the chosen design's pass-band is at most the rate. -/
theorem fle_of_chooseDesign {bw rate : F64} {d : Fin 14} (h : chooseDesign bw rate = some d) :
    fle (fdiv bw (wpass d)) rate = true :=
  List.find?_some (p := fun d => fle (fdiv bw (wpass d)) rate) h

/-- Settles O44, clause by clause from the loop's invariant and where it stops. -/
theorem chainStagesFollowTheSelection : Obligations.ChainStagesFollowTheSelection := by
  unfold Obligations.ChainStagesFollowTheSelection
  intro n m p _
  have hlen := buildChain_nstages_le n m p
  obtain ⟨b, hbuilt, hfollows, hstopped, -⟩ := buildChain_built n m p
  rw [hbuilt] at hlen
  simp only [hbuilt]
  rw [buildTarget_eq] at hfollows hstopped
  refine ⟨hstopped.trunc, hstopped.noDesign, fun hne => hfollows.target_le (by simpa using hne), hlen,
    hfollows.stages.rates, fun k hk => List.isChain_iff_getElem.mp hfollows.stages.unmerged k hk, fun g hg => ?_⟩
  have hselected := hfollows.stages.selected g (List.mem_reverse.mp hg)
  exact ⟨hselected.choice, fle_of_chooseDesign hselected.choice, hselected.merged, hselected.pass0, hselected.pass1⟩

end Sys2Proof.Machine
end

section
/-! PROOFS. The tap commands and the engine of spec/45_fir.md: the generators R345-R348, the transforms R342-R344 and
FIR.RUN R351, R352. -/

namespace Sys2Proof.Machine

/-! ## The tap generators (R345-R348) -/

/-- `storeReals_completes` with the stored array read back whole. -/
theorem storeTaps_completes {s : State} {cs : List Check} (d n : Word) {h : List F64} (hwf : s.dmem.wf = true)
    (hlen : h.length = n.toNat) (hok : ∀ c ∈ cs, c.ok = true) :
    ∃ t, command s cs (s.setDmem (writeReals s.dmem d.toNat h)) = .next t ∧ readReals t.dmem d.toNat n.toNat = h ∧
      KeptOutside s t d.toNat (8 * n.toNat) ∧ SameUnits s t ∧ Completed s t ∧ t.lastCount = s.lastCount := by
  obtain ⟨t, ht, hread, hkept, hdone, hunits, hcount⟩ := storeReals_completes d h hwf hok
  rw [hlen] at hkept
  exact ⟨t, ht, List.ext_getElem (by simp [hlen]) fun k _ hk => by rw [readReals_getElem, hread k hk], hkept, hunits,
    hdone, hcount⟩

section
variable {mode : Nib} {d n : Word} {k0 k1 : F64}

theorem oddTapCount_of_odd (hodd : n.toNat % 2 = 1) (hn : n.toNat ≤ Config.firMaxTaps) : oddTapCount n = true := by
  simp only [oddTapCount, decide_eq_true_eq]
  exact ⟨hodd, by omega, hn⟩

theorem tapCountOk_of_range (hlo : 1 ≤ n.toNat) (hhi : n.toNat ≤ Config.firMaxTaps) : tapCountOk n = true :=
  decide_eq_true ⟨hlo, hhi⟩

theorem genChecks_ok (hmode : mode.toNat ≤ 2) (hn : oddTapCount n = true) (hlo : flt fZero k0 = true)
    (hhi : flt k0 fHalf = true) (hd : LegalReals d n.toNat) : ∀ c ∈ genChecks mode d n k0, c.ok = true :=
  List.forall_mem_append.mpr ⟨by simp [hmode, hn, cutoffOk, hlo, hhi], realRegion_checks_ok hd⟩

theorem genChecks2_ok (hmode : mode.toNat ≤ 2) (hn : oddTapCount n = true) (hlo : flt fZero k0 = true)
    (hmid : flt k0 fHalf = true) (hlt : flt k0 k1 = true) (hhi : flt k1 fHalf = true) (hd : LegalReals d n.toNat) :
    ∀ c ∈ genChecks2 mode d n k0 k1, c.ok = true :=
  List.forall_mem_append.mpr ⟨by simp [hmode, hn, cutoffOk, hlo, hmid, hlt, hhi], realRegion_checks_ok hd⟩

end

theorem flt_trans {x y z : F64} (hxy : flt x y = true) (hyz : flt y z = true) : flt x z = true := by
  obtain ⟨hx, -, hlt⟩ := (flt_iff x y).mp hxy
  obtain ⟨-, hz, hlt'⟩ := (flt_iff y z).mp hyz
  exact (flt_iff x z).mpr ⟨hx, hz, hlt.trans hlt'⟩

/-- Settles O48: each generator stores an array of `N` taps, and the lower cutoff of two in order is a legal one. -/
theorem firGenerators : Obligations.FirGenerators := by
  unfold Obligations.FirGenerators
  intro s mode d n k0 k1 hwf hmode hodd hmax hpos hd
  have hn := oddTapCount_of_odd hodd hmax
  have hlen := genLP_length n.toNat
  simp only [List.forall_mem_cons, List.not_mem_nil, false_implies, implies_true, and_true]
  refine ⟨fun hhalf => ?_, fun hlt hhalf => ?_⟩
  · have hok := genChecks_ok hmode hn hpos hhalf hd
    exact ⟨storeTaps_completes d n hwf (hlen k0 mode) hok,
      storeTaps_completes d n hwf ((invertTaps_length _).trans (hlen k0 mode)) hok⟩
  · have hok := genChecks2_ok hmode hn hpos (flt_trans hlt hhalf) hlt hhalf hd
    have hstop := bandstopTaps_length mode n.toNat k0 k1
    exact ⟨storeTaps_completes d n hwf hstop hok, storeTaps_completes d n hwf ((invertTaps_length _).trans hstop) hok⟩

/-! ## The tap transforms (R342-R344) -/

theorem tapChecks_ok {ok : Bool} {a d : Word} {n : Nat} (hok : ok = true) (ha : LegalReals a n) (hd : LegalReals d n) :
    ∀ c ∈ fieldCheck ok 4 :: regionChecks [realRegion a n, realRegion d n], c.ok = true :=
  List.forall_mem_cons.mpr ⟨hok,
    regionChecks_ok (by simpa using ⟨(realRegion_ok_iff a n).mpr ha, (realRegion_ok_iff d n).mpr hd⟩)⟩

/-- What a command leaves that stores at `d` the taps at `a`, each changed by `f` according to its index. -/
theorem storeMappedTaps_completes {s : State} {cs : List Check} (f : Nat → F64 → F64) (a d n : Word)
    (hwf : s.dmem.wf = true) (hok : ∀ c ∈ cs, c.ok = true) :
    ∃ t, command s cs
        (s.setDmem (writeReals s.dmem d.toNat ((readReals s.dmem a.toNat n.toNat).mapIdx f))) = .next t ∧
      (∀ k < n.toNat, rdR t.dmem (d.toNat + 8 * k) = f k (rdR s.dmem (a.toNat + 8 * k))) ∧
      KeptOutside s t d.toNat (8 * n.toNat) ∧ SameUnits s t ∧ Completed s t ∧ t.lastCount = s.lastCount := by
  obtain ⟨t, ht, hread, hkept, hdone, hunits, hcount⟩ :=
    storeReals_completes d ((readReals s.dmem a.toNat n.toNat).mapIdx f) hwf hok
  simp only [List.length_mapIdx, readReals_length, List.getElem_mapIdx, readReals_getElem] at hread hkept
  exact ⟨t, ht, hread, hkept, hunits, hdone, hcount⟩

theorem invertTaps_eq_mapIdx {h : List F64} {n : Nat} (hlen : h.length = n) :
    invertTaps h = h.mapIdx fun k x => if k = (n - 1) / 2 then fadd (fneg x) fOne else fneg x := by
  rw [invertTaps, hlen]

theorem fneg_fneg (x : F64) : fneg (fneg x) = x := by
  rw [fneg, fneg, BitVec.xor_assoc, BitVec.xor_self, BitVec.xor_zero]

theorem reverseTaps_reverseTaps (h : List F64) : reverseTaps (reverseTaps h) = h := by
  refine List.ext_getElem (by simp only [reverseTaps_length]) fun k _ _ => ?_
  simp only [reverseTaps, List.getElem_mapIdx]
  split
  · exact fneg_fneg _
  · rfl

/-- Settles O49: both commands change each tap according to its index, and negation is its own inverse. -/
theorem firTransforms : Obligations.FirTransforms := by
  unfold Obligations.FirTransforms
  refine ⟨fun s a d n hwf hlo hmax ha hd => ⟨fun hodd => ?_, ?_⟩, reverseTaps_reverseTaps⟩
  · have hstore := storeMappedTaps_completes
      (fun k x => if k = (n.toNat - 1) / 2 then fadd (fneg x) fOne else fneg x) a d n hwf
      (tapChecks_ok (oddTapCount_of_odd hodd hmax) ha hd)
    rwa [← invertTaps_eq_mapIdx (readReals_length s.dmem a.toNat n.toNat)] at hstore
  · exact storeMappedTaps_completes (fun k x => if k % 2 = 1 then fneg x else x) a d n hwf
      (tapChecks_ok (tapCountOk_of_range hlo hmax) ha hd)

/-! ## FIR.RUN (R351, R352) -/

section
variable {s : State} {u : Nib} {a d n : Word}

/-- An unconfigured line is what an index outside the bank reads, so a configured one is in the bank. -/
theorem lt_dlUnits_of_cfg {j : Nat} (h : (s.dlAt j).cfg = true) : j < Config.dlUnits := by
  by_contra hj
  rw [State.dlAt, Vector.getElem?_eq_none (by omega)] at h
  exact absurd h (by decide)

theorem firRun_allChecks_ok (hready : ∀ c ∈ firRunChecks u.toNat n.toNat u s, c.ok = true) (ha : LegalCpxs a n.toNat)
    (hd : LegalCpxs d n.toNat) :
    ∀ c ∈ firRunChecks u.toNat n.toNat u s ++ regionChecks [cpxRegion a n.toNat, cpxRegion d n.toNat], c.ok = true :=
  List.forall_mem_append.mpr ⟨hready,
    regionChecks_ok (by simpa using ⟨(cpxRegion_ok_iff a _).mpr ha, (cpxRegion_ok_iff d _).mpr hd⟩)⟩

theorem firRunChecks_ok_of_td (hu : u.toNat < Config.firUnits) (hcfg : (s.firAt u.toNat).cfg = true)
    (hmode : (s.firAt u.toNat).mode = .td) (hline : (s.dlAt (s.firAt u.toNat).dl).cfg = true) :
    ∀ c ∈ firRunChecks u.toNat n.toNat u s, c.ok = true := by
  simp [firRunChecks, hu, hcfg, hmode, hline]

theorem firRunChecks_ok_of_fd (hu : u.toNat < Config.firUnits) (hcfg : (s.firAt u.toNat).cfg = true)
    (hmode : (s.firAt u.toNat).mode = .fd) (hblock : n.toNat = (s.firAt u.toNat).blk) :
    ∀ c ∈ firRunChecks u.toNat n.toNat u s, c.ok = true := by
  simp [firRunChecks, hu, hcfg, hmode, hblock]

theorem exec_firRun_of_td (hmode : (s.firAt u.toNat).mode = .td) :
    exec (.firRun u a d n) s =
      (let f := s.firAt u.toNat
       let r := tdRun f.taps (s.dlAt f.dl) (readCpxs s.dmem a.toNat n.toNat)
       command s (firRunChecks u.toNat n.toNat u s ++ regionChecks [cpxRegion a n.toNat, cpxRegion d n.toNat])
         ((s.setDl f.dl r.1).setDmem (writeCpxs s.dmem d.toNat r.2))) := by
  simp only [exec, execFirRun, hmode]

theorem exec_firRun_of_fd (hmode : (s.firAt u.toNat).mode = .fd) :
    exec (.firRun u a d n) s =
      (let f := s.firAt u.toNat
       let x := readCpxs s.dmem a.toNat n.toNat
       command s (firRunChecks u.toNat n.toNat u s ++ regionChecks [cpxRegion a n.toNat, cpxRegion d n.toNat])
         ((s.setFir u.toNat { f with xtail := fdTail f.taps f.xtail x }).setDmem
           (writeCpxs s.dmem d.toNat (fdOutputs f.taps f.xtail x)))) := by
  simp only [exec, execFirRun, hmode]

end

/-- Output `k` of the time-domain path sums the taps over the line after the samples up to `k` (R351). -/
theorem tdRun_snd_getElem? (taps : List F64) (l : DelayLine) (x : List Cpx) {k : Nat} (hk : k < x.length) :
    (tdRun taps l x).2[k]? = some (mac ((x.take (k + 1)).foldl newSample l) taps) := by
  induction x generalizing l k with
  | nil => simp at hk
  | cons z zs ih =>
    cases k with
    | zero => rfl
    | succ k => exact ih (newSample l z) (Nat.lt_of_succ_lt_succ hk)

/-- Where the tail has the length of R70, it keeps the end of the tail and the block (R352). -/
theorem fdTail_eq_drop {taps : List F64} {xtail : List Cpx} (h : xtail.length = taps.length - 1) (x : List Cpx) :
    fdTail taps xtail x = (xtail ++ x).drop x.length :=
  List.take_of_length_le (by simp [h])

/-- What a command leaves that writes one unit, stores a CPX array of `n` elements at `d` and nothing else. -/
theorem storeUnit_completes {s : State} {cs : List Check} (w : UnitWrite) (d : Word) {zs : List Cpx} {n : Nat}
    (hwf : s.dmem.wf = true) (hlen : zs.length = n) (hok : ∀ c ∈ cs, c.ok = true) :
    ∃ t, command s cs ((w.apply s).setDmem (writeCpxs s.dmem d.toNat zs)) = .next t ∧
      SameUnits (w.apply s) t ∧ readCpxs t.dmem d.toNat n = zs ∧
      KeptOutside s t d.toNat (16 * n) ∧ Completed s t ∧ t.lastCount = s.lastCount := by
  subst hlen
  have hwrites := (WritesOnly.apply w s).setDmem (writeCpxs s.dmem d.toNat zs)
  refine ⟨_, command_of_ok hok, { hwrites.units with }, readCpxs_writeCpxs hwf d.toNat zs,
    keptOutside_writeCpxs hwf d.toNat zs rfl, hwrites.completed, ?_⟩
  cases w <;> rfl

/-- An element of an array as the array read whole has it. -/
theorem rdC_eq_of_readCpxs {m : Memory} {a n k : Nat} {zs : List Cpx} {z : Cpx} (h : readCpxs m a n = zs) (hk : k < n)
    (hz : zs[k]? = some z) : rdC m (a + 16 * k) = z := by
  subst h
  simpa [readCpxs, hk] using hz

/-- Settles O51: each mode writes its unit and stores its outputs. -/
theorem firRun : Obligations.FirRun := by
  unfold Obligations.FirRun
  intro s u a d n hwf hu hcfg ha hd
  have hn := readCpxs_length s.dmem a.toNat n.toNat
  refine ⟨fun hmode hline => ?_, fun hmode hblock htail => ?_⟩
  · rw [exec_firRun_of_td hmode]
    obtain ⟨t, ht, hunits, hread, hkept, hdone, hcount⟩ := storeUnit_completes
      (.dl (s.firAt u.toNat).dl (tdRun (s.firAt u.toNat).taps (s.dlAt (s.firAt u.toNat).dl)
        (readCpxs s.dmem a.toNat n.toNat)).1)
      d hwf ((tdRun_length _ _ _).trans hn) (firRun_allChecks_ok (firRunChecks_ok_of_td hu hcfg hmode hline) ha hd)
    rw [UnitWrite.apply] at hunits
    refine ⟨t, ht, ?_, fun k hk => ?_, hkept, onlyDl_of_units hunits, hdone, hcount⟩
    · rw [hunits.dlAt, dlAt_setDl_same _ _ _ (lt_dlUnits_of_cfg hline), tdRun_fst]
    · exact rdC_eq_of_readCpxs hread hk (tdRun_snd_getElem? _ _ _ (by rwa [hn]))
  · rw [exec_firRun_of_fd hmode]
    obtain ⟨t, ht, hunits, hread, hkept, hdone, hcount⟩ := storeUnit_completes
      (.fir u.toNat { s.firAt u.toNat with
        xtail := fdTail (s.firAt u.toNat).taps (s.firAt u.toNat).xtail (readCpxs s.dmem a.toNat n.toNat) })
      d hwf ((fdOutputs_length _ _ _).trans hn) (firRun_allChecks_ok (firRunChecks_ok_of_fd hu hcfg hmode hblock) ha hd)
    rw [UnitWrite.apply] at hunits
    refine ⟨t, ht, ?_, hread, fun j hj => ?_, hkept, onlyFir_of_units hunits, hdone, hcount⟩
    · rw [hunits.firAt, firAt_setFir_same _ _ _ hu, fdTail_eq_drop htail, hn]
    · have hout := rdC_eq_of_readCpxs hread hj (fdOutputs_getElem? _ _ _ j (by rwa [hn]))
      simp only [hout]
      exact (fdOutput_cases _ _ _ j).imp_right fdAllowed_near

end Sys2Proof.Machine
end

section
/-! PROOFS. The recursions of spec/46_iir.md: the direct form R371, the cascade R373 as the composition of its sections,
and IIR.CLR R376. -/

namespace Sys2Proof.Machine

/-! ## The recursion of one channel (R371) -/

theorem addProducts_eq_foldl (acc : F64) (cs hs : List F64) :
    addProducts acc cs hs = (List.zip cs hs).foldl (fun acc r => fadd acc (fmul r.1 r.2)) acc := by
  induction cs generalizing acc hs with
  | nil => rfl
  | cons c cs ih =>
    cases hs with
    | nil => rfl
    | cons h hs => exact ih (fadd acc (fmul c h)) hs

theorem subProducts_eq_foldl (acc : F64) (cs hs : List F64) :
    subProducts acc cs hs = (List.zip cs hs).foldl (fun acc r => fsub acc (fmul r.1 r.2)) acc := by
  induction cs generalizing acc hs with
  | nil => rfl
  | cons c cs ih =>
    cases hs with
    | nil => rfl
    | cons h hs => exact ih (fsub acc (fmul c h)) hs

/-- A full history of at least one entry takes the new one in front and drops the oldest. -/
theorem shiftIn_eq_cons_dropLast {p : Nat} {h : List F64} (hp : 1 ≤ p) (hlen : h.length = p) (v : F64) :
    shiftIn p v h = v :: h.dropLast := by
  obtain ⟨q, rfl⟩ := Nat.exists_eq_add_of_le' hp
  rw [shiftIn, List.take_succ_cons, List.dropLast_eq_take, hlen, Nat.add_sub_cancel]

theorem df_output (b0 : F64) (b a : List F64) (h : Hist) (v : F64) :
    (df b0 b a h v).2 =
      (List.zip a h.y).foldl (fun acc r => fsub acc (fmul r.1 r.2))
        ((List.zip b h.x).foldl (fun acc r => fadd acc (fmul r.1 r.2)) (fadd fZero (fmul b0 v))) := by
  rw [← addProducts_eq_foldl, ← subProducts_eq_foldl, df]

theorem df_history {a : List F64} {h : Hist} (hp : 1 ≤ a.length) (hh : h.HasLength a.length) (b0 : F64) (b : List F64)
    (v : F64) : (df b0 b a h v).1 = ⟨v :: h.x.dropLast, (df b0 b a h v).2 :: h.y.dropLast⟩ := by
  obtain ⟨hx, hy⟩ := hh
  simp only [df, shiftIn_eq_cons_dropLast hp hx, shiftIn_eq_cons_dropLast hp hy]

/-- The direct form runs the recursion in each channel by itself (R374). -/
theorem iirStep_direct {g : Iir} {b0 : F64} {b : List F64} (hmode : g.mode = .direct) (hb : g.b = b0 :: b) (z : Cpx) :
    iirStep g z =
      ({ g with re := (df b0 b g.a g.re z.re).1, im := (df b0 b g.a g.im z.im).1 },
        ⟨(df b0 b g.a g.re z.re).2, (df b0 b g.a g.im z.im).2⟩) := by
  simp only [iirStep, hmode, hb, List.getElem?_cons_zero, Option.getD_some, List.tail_cons]

/-! ## The cascade as a composition (R373) -/

theorem cascadeStep_append (cs ds : List Section) (z : Cpx) :
    cascadeStep (cs ++ ds) z =
      ((cascadeStep cs z).1 ++ (cascadeStep ds (cascadeStep cs z).2).1, (cascadeStep ds (cascadeStep cs z).2).2) := by
  induction cs generalizing z with
  | nil => rfl
  | cons c cs ih => simp only [List.cons_append, cascadeStep, ih]

theorem iirStep_cascade {g : Iir} (hmode : g.mode = .cascade) (cs : List Section) (z : Cpx) :
    iirStep { g with sections := cs } z = ({ g with sections := (cascadeStep cs z).1 }, (cascadeStep cs z).2) := by
  simp only [iirStep, hmode]

theorem iirRun_cascade_nil {g : Iir} (hmode : g.mode = .cascade) (xs : List Cpx) :
    (iirRun { g with sections := [] } xs).2 = xs := by
  induction xs with
  | nil => rfl
  | cons z zs ih => simp only [iirRun, iirStep_cascade hmode, cascadeStep, ih]

/-- A run of a cascade is the run of its first sections, then the run of the others on what those put out. -/
theorem iirRun_cascade_append {g : Iir} (hmode : g.mode = .cascade) (cs ds : List Section) (xs : List Cpx) :
    iirRun { g with sections := cs ++ ds } xs =
      (let first := iirRun { g with sections := cs } xs
       let others := iirRun { g with sections := ds } first.2
       ({ g with sections := first.1.sections ++ others.1.sections }, others.2)) := by
  induction xs generalizing cs ds with
  | nil => rfl
  | cons z zs ih => simp only [iirRun, iirStep_cascade hmode, cascadeStep_append, ih]

/-! ## IIR.CLR after a run (R376) -/

/-- A step of the cascade changes nothing but histories, so what a clear leaves is the same before and after it. -/
theorem cascadeStep_cleared (cs : List Section) (z : Cpx) :
    (cascadeStep cs z).1.map (fun c => { c with re := Hist.zero 2, im := Hist.zero 2 }) =
      cs.map fun c => { c with re := Hist.zero 2, im := Hist.zero 2 } := by
  induction cs generalizing z with
  | nil => rfl
  | cons c cs ih => simp only [cascadeStep, List.map_cons, ih]

theorem clearHistories_iirStep (g : Iir) (z : Cpx) : clearHistories (iirStep g z).1 = clearHistories g := by
  cases hmode : g.mode with
  | direct => rw [iirStep_of_direct hmode]; rfl
  | cascade => simp only [iirStep_of_cascade hmode, clearHistories, cascadeStep_cleared, Iir.order]

theorem clearHistories_iirRun (g : Iir) (xs : List Cpx) : clearHistories (iirRun g xs).1 = clearHistories g := by
  induction xs generalizing g with
  | nil => rfl
  | cons z zs ih => exact (ih (iirStep g z).1).trans (clearHistories_iirStep g z)

/-- Settles O53: the direct form, the first section of a cascade, the run of a cascade, and IIR.CLR after a run. -/
theorem iirRecursion : Obligations.IirRecursion := by
  unfold Obligations.IirRecursion
  refine ⟨fun g b0 b z hmode hb _ hre him => ?_, fun c cs z x1 x2 y1 y2 u1 u2 v1 v2 hre him => ?_,
    fun g c cs xs hmode => ⟨iirRun_cascade_nil hmode xs, iirRun_cascade_append hmode [c] cs xs⟩,
    fun g xs hclear => ?_⟩
  · simp only [iirStep_direct hmode hb, ← df_output, true_and]
    intro hp
    rw [← df_history hp hre, ← df_history hp him]
  · simp only [cascadeStep, sectionDf, hre, him]
    rfl
  · have hrestored : clearHistories (iirRun g xs).1 = g := (clearHistories_iirRun g xs).trans hclear
    exact ⟨hrestored, by rw [hrestored]⟩

end Sys2Proof.Machine
end

section
/-! PROOFS. The two fetch faults (spec/60_exceptions.md R454) and START (R482). -/

namespace Sys2Proof.Machine

/-! ## The fetch (R454) -/

theorem firstFault_fetchChecks_of_misaligned {s : State} (h : s.cp.toNat % 64 ≠ 0) :
    firstFault (fetchChecks s) = some (.fetchMisaligned, s.cp) := by
  rw [fetchChecks, firstFault_cons, if_neg (by simpa using h)]

theorem firstFault_fetchChecks_of_beyond {s : State} (haligned : s.cp.toNat % 64 = 0)
    (h : Config.dmemBytes < s.cp.toNat + 64) : firstFault (fetchChecks s) = some (.fetchRange, s.cp) := by
  rw [fetchChecks, firstFault_cons, if_pos (by simpa using haligned), firstFault_cons, if_neg (by simpa using h)]

/-- A step that fetches takes the fault of the fetch checks, with nothing else changed (R450, R454). -/
theorem WillFetch.step_faults {s : State} (h : WillFetch s) {c : Cause} {v : Word}
    (hfault : firstFault (fetchChecks s) = some (c, v)) : Faults (step s) c v s := by
  obtain ⟨hbusy, hsreset, habort, hinputs⟩ := h
  have haction : sequencerAction s = stopWith c v s := by
    rw [sequencerAction, hbusy, hsreset, habort, hfault]
    rfl
  rw [step_of_noInputs hinputs, haction]
  exact stopWith_faults c v hsreset

/-- Settles O8: the fetch checks in their order, and the two commands that set `CP` to a target. -/
theorem fetchFaultsAreTaken : Obligations.FetchFaultsAreTaken := by
  unfold Obligations.FetchFaultsAreTaken
  refine ⟨fun s hfetch hmis => hfetch.step_faults (firstFault_fetchChecks_of_misaligned hmis),
    fun s hfetch hal hbeyond => hfetch.step_faults (firstFault_fetchChecks_of_beyond hal hbeyond),
    fun s a => ⟨_, rfl, rfl, rfl⟩, fun s a htaken => ⟨retire (loopEffect a s), rfl, ?_⟩⟩
  rw [loopEffect_counter, if_pos htaken]
  exact ⟨rfl, rfl⟩

/-! ## START (R482) -/

theorem writeCtrl_start {s : State} {v : Word} (hsreset : v.getLsbD 2 = false) (habort : v.getLsbD 1 = false)
    (hstart : v.getLsbD 0 = true) :
    writeCtrl s v = if !s.status.busy && !s.status.fault then startRun s else s := by
  simp only [writeCtrl, hsreset, habort, hstart, Bool.false_eq_true, if_false, if_true]

theorem startRun_of_noFault {s : State} (h : s.status.fault = false) :
    startRun s = { s with status := ⟨true, false, false, false⟩ } := by
  simp only [startRun, h]

/-- Settles O10: START acts where BUSY and FAULT are 0, and there it leaves BUSY as the only flag. -/
theorem startBeginsARun : Obligations.StartBeginsARun := by
  unfold Obligations.StartBeginsARun
  intro s v hstart habort hsreset
  rw [hostMove_writeCtrl, writeCtrl_start hsreset habort hstart]
  by_cases hidle : s.status.busy = false ∧ s.status.fault = false
  · rw [if_pos hidle, if_pos (by simpa using hidle), startRun_of_noFault hidle.2]
  · rw [if_neg hidle, if_neg (by simpa using hidle)]

end Sys2Proof.Machine
end

section
/-! PROOFS. The checks of every command in the order of R456 (spec/60_exceptions.md): the unit exists, it is configured,
the delay line it uses is configured (R451, R452), the fields of R455 are in range, and then the regions. -/

namespace Sys2Proof.Machine

/-! ## The checks in their order -/

/-- BAD_UNIT of the `UNIT` field, where the command has one. -/
def unitChecks (i : Instr) : List Check := (unitOperand i).toList.map fun p => unitCheck p.1 p.2

/-- UNCONFIGURED of the unit the command needs. -/
def configChecks (s : State) (i : Instr) : List Check :=
  (configOperand s i).toList.map fun p => ⟨p.1, .unconfigured, BitVec.ofNat 32 p.2⟩

/-- UNCONFIGURED of the delay line of a time-domain engine (R351). -/
def lineChecks (s : State) : Instr → List Check
  | .firRun u _ _ _ =>
    [cfgCheck ((s.firAt u.toNat).mode == .fd || (s.dlAt (s.firAt u.toNat).dl).cfg) .dl (s.firAt u.toNat).dl]
  | _ => []

/-- BAD_FIELD of the fields of R455's table, in its order. -/
def fieldChecks (s : State) (i : Instr) : List Check := (fieldRanges s i).map fun p => fieldCheck p.2 p.1

/-- Every check of a command, in the order of R456. -/
def orderedChecks (s : State) (i : Instr) : List Check :=
  unitChecks i ++ (configChecks s i ++ (lineChecks s i ++ (fieldChecks s i ++ regionChecks (operandRegions s i))))

/-- The form of a command: the checks of R456 in their order, and past them a completed state `t`. -/
inductive OrderedForm (s : State) (i : Instr) : Prop
  | mk (t : State) (hexec : exec i s = checked s (orderedChecks s i) t) (hretired : t.retired = s.retired + 1#64)

section
variable {s e t : State} {i : Instr} {cs : List Check} {w : UnitWrite}

/-- A command depends on its checks through their first fault only (R456). -/
theorem checked_congr {cs ds : List Check} (h : firstFault cs = firstFault ds) : checked s cs t = checked s ds t := by
  rw [checked, checked, h]

theorem OrderedForm.of_control (hexec : exec i s = checked s [] t) (hchecks : orderedChecks s i = [])
    (hretired : t.retired = s.retired + 1#64) : OrderedForm s i :=
  .mk t (by rw [hchecks, hexec]) hretired

theorem OrderedForm.of_command (hexec : exec i s = command s cs e)
    (hchecks : firstFault cs = firstFault (orderedChecks s i)) (he : WritesOnly w s e) : OrderedForm s i :=
  .mk (complete e) (hexec.trans (checked_congr hchecks)) he.completed.retired

/-- A command that configures a unit, with checks `fs` of its fields that fault as R455's table does. -/
theorem OrderedForm.of_configure {u : Nib} {count : Nat} {fs : List Check}
    (hexec : exec i s = command s (unitCheck u count :: (fs ++ regionChecks (operandRegions s i))) e)
    (hinstances : unitChecks i ++ (configChecks s i ++ lineChecks s i) = [unitCheck u count])
    (hfields : firstFault fs = firstFault (fieldChecks s i)) (he : WritesOnly w s e) : OrderedForm s i := by
  refine .of_command hexec ?_ he
  have hchecks : orderedChecks s i = [unitCheck u count] ++ (fieldChecks s i ++ regionChecks (operandRegions s i)) := by
    rw [← hinstances]
    simp only [orderedChecks, List.append_assoc]
  rw [hchecks, List.singleton_append, firstFault_cons, firstFault_cons, firstFault_append, firstFault_append, hfields]

end

/-! ## The fields of a command against R455's table -/

theorem toNat_bne_zero (n : Word) : (n.toNat != 0) = (n != 0) := by
  rw [Bool.eq_iff_iff]
  simp [BitVec.toNat_eq]

theorem firstFault_fieldCheck_cons (ok : Bool) (w : Nat) (cs : List Check) :
    firstFault (fieldCheck ok w :: cs) = if ok then firstFault cs else some (.badField, BitVec.ofNat 32 w) :=
  firstFault_cons _ _

theorem decide_mode_imp (mode k : Nib) (p : Prop) [Decidable p] : decide (mode = k → p) = (mode != k || decide p) := by
  by_cases h : mode = k <;> simp [h]

theorem firstFault_hbFields (s : State) (u mode : Nib) (a n m p : Word) (k0 : F64) :
    firstFault [fieldCheck (decide (mode.toNat ≤ 2)) 0,
      fieldCheck (decide (mode = 1#4 → n.toNat % 2 = 1 ∧ 3 ≤ n.toNat ∧ n.toNat ≤ Config.hbMaxTaps)) 4,
      fieldCheck (decide (mode = 0#4 → m.toNat < 14)) 5,
      fieldCheck (decide (p = 2#32 ∨ p = 4#32)) 6] = firstFault (fieldChecks s (.hbCfg u mode a n m p k0)) := by
  simp only [decide_mode_imp, Bool.decide_and, Bool.decide_or, ← Bool.and_assoc]
  rfl

/-- Of the two ranges of `M` only that of the mode counts; past them stands no other mode. -/
theorem firstFault_firFields (s : State) (u mode : Nib) (a n m : Word) :
    firstFault [fieldCheck (decide (mode.toNat ≤ 1)) 0,
      fieldCheck (tapCountOk n) 4,
      fieldCheck (decide (mode = 0#4 → m.toNat < Config.dlUnits)) 5,
      fieldCheck (decide (mode = 1#4 →
        1 ≤ m.toNat ∧ m.toNat ≤ Config.firMaxBlock ∧ n.toNat ≤ m.toNat + 1)) 5] =
      firstFault (fieldChecks s (.firCfg u mode a n m)) := by
  by_cases hmode : mode.toNat ≤ 1
  · rcases nib_zero_or_one hmode with rfl | rfl <;>
      simp [fieldChecks, fieldRanges, tapCountOk, firstFault_fieldCheck_cons, and_assoc]
  · simp [fieldChecks, fieldRanges, firstFault_fieldCheck_cons, hmode]

theorem firstFault_iirFields (s : State) (u mode : Nib) (a n : Word) :
    firstFault [fieldCheck (decide (mode.toNat ≤ 1)) 0,
      fieldCheck (decide (mode = 0#4 → 1 ≤ n.toNat ∧ n.toNat ≤ Config.iirMaxOrder)) 4,
      fieldCheck (decide (mode = 1#4 → 1 ≤ n.toNat ∧ n.toNat ≤ Config.iirMaxSections)) 4] =
      firstFault (fieldChecks s (.iirCfg u mode a n)) := by
  by_cases hmode : mode.toNat ≤ 1
  · rcases nib_zero_or_one hmode with rfl | rfl <;>
      simp [fieldChecks, fieldRanges, firstFault_fieldCheck_cons]
  · simp [fieldChecks, fieldRanges, firstFault_fieldCheck_cons, hmode]

/-- The two ranges of `K2` are those of two modes. -/
theorem firstFault_gzFields (s : State) (u mode : Nib) (n m p : Word) (k0 k1 k2 : F64) :
    firstFault [fieldCheck (decide (mode.toNat ≤ 2)) 0,
      fieldCheck (n.toNat != 0) 4,
      fieldCheck (decide (p.toNat ≤ 2)) 6,
      fieldCheck (isFinite k0) 8,
      fieldCheck (isFinite k1 && flt fZero k1) 10,
      fieldCheck (mode != 1#4 || (isFinite k2 && fle fZero k2)) 12,
      fieldCheck (mode != 2#4 || (fle fZero k2 && fle k2 fOne)) 12] =
      firstFault (fieldChecks s (.gzCfg u mode n m p k0 k1 k2)) := by
  have hk2 : ((mode != 1#4 || (isFinite k2 && fle fZero k2)) && (mode != 2#4 || (fle fZero k2 && fle k2 fOne))) =
      if mode = 1 then isFinite k2 && fle fZero k2 else if mode = 2 then fle fZero k2 && fle k2 fOne else true := by
    by_cases h1 : mode = 1#4
    · simp [h1]
    · by_cases h2 : mode = 2#4 <;> simp [h1, h2]
  simp only [fieldChecks, fieldRanges, List.map_cons, List.map_nil, ← hk2, ← toNat_bne_zero]
  simp only [firstFault_fieldCheck_cons, firstFault_nil, Bool.and_eq_true, ite_and]

/-- Every command has the form. -/
theorem exec_orderedForm (i : Instr) (s : State) : OrderedForm s i := by
  have hstores (m : Memory) : WritesOnly .nothing s (s.setDmem m) := (WritesOnly.apply .nothing s).setDmem m
  cases i with
  | nop | halt | jump | lset | signal => exact .of_control rfl rfl rfl
  | loop a => exact .of_control rfl rfl (by rw [loopEffect_counter]; rfl)
  | vadd | vsub | vmul | vdiv | vscale | vconj | vmag | vsqmag | vpolar | vrect | vclear | vcopy | vnormsqr | vnorm
  | vpeak | vpeakpwr | dlTap | dlMac => exact .of_command rfl rfl (hstores _)
  | vdecim => exact .of_command rfl (by rw [toNat_bne_zero]; rfl) ((hstores _).setCount _)
  | dlCfg => exact .of_command rfl (by simp only [Bool.decide_and]; rfl) (.apply (.dl _ _) s)
  | dlPush => exact .of_command rfl rfl (.apply (.dl _ _) s)
  | hbCfg u mode a n m p k0 =>
    have hregions : operandRegions s (.hbCfg u mode a n m p k0) = if mode = 1 then [realRegion a n.toNat] else [] := rfl
    refine .of_configure (w := .hb u.toNat (configuredHalfband s.dmem mode a n m p k0)) ?_ rfl
      (firstFault_hbFields s u mode a n m p k0) (.apply _ s)
    rw [hregions, apply_ite regionChecks]
    rfl
  | hbRun => exact .of_command rfl rfl (((WritesOnly.apply (.hb _ _) s).setDmem _).setCount _)
  | chBuild =>
    exact .of_command rfl (by rw [toNat_bne_zero]; rfl) (((WritesOnly.apply (.ch _ _) s).setDmem _).setCount _)
  | chProc => exact .of_command rfl rfl (((WritesOnly.apply (.ch _ _) s).setDmem _).setCount _)
  | chInfo => exact .of_command rfl rfl ((hstores _).setCount _)
  | firCfg u mode a n m => exact .of_configure rfl rfl (firstFault_firFields s u mode a n m) (.apply (.fir _ _) s)
  | firRun u a d n =>
    cases hmode : (s.firAt u.toNat).mode with
    | td => exact .of_command (exec_firRun_of_td hmode) rfl ((WritesOnly.apply (.dl _ _) s).setDmem _)
    | fd => exact .of_command (exec_firRun_of_fd hmode) rfl ((WritesOnly.apply (.fir _ _) s).setDmem _)
  | firGenlp | firGenhp => exact .of_command rfl (by rw [genChecks, oddTapCount_eq]; rfl) (hstores _)
  | firGenbs | firGenbp => exact .of_command rfl (by rw [genChecks2, oddTapCount_eq]; rfl) (hstores _)
  | firInvert => exact .of_command rfl (by rw [oddTapCount_eq]; rfl) (hstores _)
  | firReverse => exact .of_command rfl (by rw [tapCountOk, Bool.decide_and]; rfl) (hstores _)
  | iirCfg u mode a n => exact .of_configure rfl rfl (firstFault_iirFields s u mode a n) (.apply (.iir _ _) s)
  | iirRun => exact .of_command rfl rfl ((WritesOnly.apply (.iir _ _) s).setDmem _)
  | iirClr => exact .of_command rfl rfl (.apply (.iir _ _) s)
  | gzCfg u mode n m p k0 k1 k2 =>
    exact .of_configure rfl rfl (firstFault_gzFields s u mode n m p k0 k1 k2) (.apply (.gz _ _) s)
  | gzRun => exact .of_command rfl rfl (((WritesOnly.apply (.gz _ _) s).setDmem _).setCount _)
  | ncoCfg | ncoFreq => exact .of_command rfl rfl (.apply (.nco _ _) s)
  | ncoMix => exact .of_command rfl rfl ((WritesOnly.apply (.nco _ _) s).setDmem _)

/-- A command enters a fault exactly where that is the first of its checks to fail; a command that completes has
retired. -/
theorem exec_faults_iff {s : State} {i : Instr} {c : Cause} {v : Word} :
    Faults (exec i s) c v s ↔ firstFault (orderedChecks s i) = some (c, v) := by
  obtain ⟨t, hexec, hretired⟩ := exec_orderedForm i s
  rw [hexec]
  refine ⟨fun ⟨t', ht', hentered⟩ => ?_, fun h => ⟨_, checked_of_fault h, takeFault_entered c v s⟩⟩
  cases hfirst : firstFault (orderedChecks s i) with
  | none =>
    obtain rfl : t = t' := Host.Outcome.next.inj ((checked_of_ok ((firstFault_eq_none_iff _).mp hfirst)).symm.trans ht')
    have hsame := hretired.symm.trans hentered.retired
    bv_omega
  | some r =>
    obtain rfl : takeFault r.1 r.2 s = t' := Host.Outcome.next.inj ((checked_of_fault hfirst).symm.trans ht')
    obtain rfl : r.1 = c := hentered.cause
    obtain rfl : r.2 = v := hentered.faultInfo
    rfl

theorem firstFault_append_of_some {cs ds : List Check} {r : Cause × Word} (h : firstFault cs = some r) :
    firstFault (cs ++ ds) = some r := by
  rw [firstFault_append, h, Option.some_or]

/-! ## Units and configuration (R451, R452) -/

section
variable {s : State} {i : Instr} {u : Nib} {count : Nat}

theorem unitChecks_of_unit (hunit : unitOperand i = some (u, count)) : unitChecks i = [unitCheck u count] := by
  rw [unitChecks, hunit, Option.toList_some, List.map_singleton]

theorem unitChecks_ok (h : ∀ u count, unitOperand i = some (u, count) → u.toNat < count) :
    ∀ c ∈ unitChecks i, c.ok = true := by
  cases hunit : unitOperand i with
  | none => simp [unitChecks, hunit]
  | some p => simpa [unitChecks_of_unit hunit] using h p.1 p.2 hunit

theorem configChecks_of_config {b : Bool} {info : Nat} (hconfig : configOperand s i = some (b, info)) :
    configChecks s i = [⟨b, .unconfigured, BitVec.ofNat 32 info⟩] := by
  rw [configChecks, hconfig, Option.toList_some, List.map_singleton]

theorem configChecks_ok (h : ∀ b info, configOperand s i = some (b, info) → b = true) :
    ∀ c ∈ configChecks s i, c.ok = true := by
  cases hconfig : configOperand s i with
  | none => simp [configChecks, hconfig]
  | some p => simpa [configChecks_of_config hconfig] using h p.1 p.2 hconfig

theorem lineChecks_ok (h : lineReady s i) : ∀ c ∈ lineChecks s i, c.ok = true := by
  cases i with
  | firRun u a d n =>
    cases hmode : (s.firAt u.toNat).mode with
    | td => simpa [lineChecks, hmode] using h hmode
    | fd => simp [lineChecks, hmode]
  | _ => simp [lineChecks]

/-- The line check fails for a time-domain engine whose line is unconfigured (R351). -/
theorem firstFault_lineChecks (hunit : unitOperand i = some (u, count)) (h : ¬ lineReady s i) :
    firstFault (lineChecks s i) = some (.unconfigured, BitVec.ofNat 32 (2 * 256 + (s.firAt u.toNat).dl)) := by
  cases i with
  | firRun v a d n =>
    obtain ⟨rfl, -⟩ := Prod.mk.inj (Option.some.inj hunit)
    obtain ⟨hmode, hcfg⟩ := Classical.not_imp.mp h
    rw [lineChecks, firstFault_cons, if_neg (by simp [hmode, hcfg])]
    rfl
  | _ => exact absurd trivial h

end

/-- Settles O14: the unit check is the first of R456, then that of its configuration, then that of its line. -/
theorem unitFaultsComeFirst : Obligations.UnitFaultsComeFirst := by
  unfold Obligations.UnitFaultsComeFirst
  intro i s u count hunit
  simp only [exec_faults_iff, orderedChecks]
  have hexists (hlt : u.toNat < count) : ∀ c ∈ unitChecks i, c.ok = true := by
    simpa [unitChecks_of_unit hunit] using hlt
  refine ⟨fun hge => firstFault_append_of_some ?_, fun info hlt hconfig => ?_, fun info hlt hconfig hline => ?_⟩
  · simp [unitChecks_of_unit hunit, firstFault_cons, unitCheck, hge]
  · rw [firstFault_of_ok (hexists hlt)]
    exact firstFault_append_of_some (by rw [configChecks_of_config hconfig]; rfl)
  · rw [firstFault_of_ok (hexists hlt), firstFault_of_ok (by simp [configChecks_of_config hconfig])]
    exact firstFault_append_of_some (firstFault_lineChecks hunit hline)

/-! ## Fields (R455) -/

theorem firstFault_fieldChecks (s : State) (i : Instr) :
    firstFault (fieldChecks s i) = (badFieldOf s i).map fun k => (.badField, BitVec.ofNat 32 k) := by
  rw [fieldChecks, badFieldOf]
  induction fieldRanges s i with
  | nil => rfl
  | cons p ps ih =>
    rw [List.map_cons, firstFault_fieldCheck_cons, ih, List.find?_cons]
    cases p.2 <;> rfl

/-- Past the checks of its instances a command faults with a field exactly where R455's table names one: the checks of
its regions have other causes. -/
theorem firstFault_field_iff (s : State) (i : Instr) (w : Word) :
    firstFault (fieldChecks s i ++ regionChecks (operandRegions s i)) = some (.badField, w) ↔
      ∃ k, badFieldOf s i = some k ∧ w = BitVec.ofNat 32 k := by
  rw [firstFault_append, firstFault_fieldChecks]
  cases badFieldOf s i with
  | some k => simp [eq_comm]
  | none =>
    rw [firstFault_regionChecks]
    cases misalignedOf s i with
    | some a => simp
    | none => cases outsideOf s i <;> simp

/-- Settles O15: with the unit checks passing, the fault is that of the field checks or of the region checks. -/
theorem fieldFaultsAreTaken : Obligations.FieldFaultsAreTaken := by
  unfold Obligations.FieldFaultsAreTaken
  intro i s hunit hconfigured hline w
  rw [exec_faults_iff, orderedChecks, firstFault_of_ok (unitChecks_ok hunit),
    firstFault_of_ok (configChecks_ok hconfigured), firstFault_of_ok (lineChecks_ok hline)]
  exact firstFault_field_iff s i w

end Sys2Proof.Machine
end

section
/-! PROOFS. The Goertzel detector (spec/47_goertzel.md): the samples inside a bin and its end R391-R393, the detectors
R394, and the commands R395, R396. -/

namespace Sys2Proof.Machine

/-! ## The samples of a bin (R391-R393) -/

/-- The recursion of one bin over samples (R391). -/
def GzBin.run (insel : GzInput) (b : GzBin) (xs : List Cpx) : GzBin :=
  xs.foldl (fun b z => binStep b (gzSelect insel z)) b

/-- The detector after samples that end no bin: the active bins' recursions and the count have moved on (R396). -/
def Goertzel.fed (g : Goertzel) (xs : List Cpx) : Goertzel :=
  { g with
    bin0 := g.bin0.run g.insel xs
    bin1 := if g.mode = .threeTone then g.bin1.run g.insel xs else g.bin1
    bin2 := if g.mode = .threeTone then g.bin2.run g.insel xs else g.bin2
    cnt := g.cnt + xs.length }

theorem Goertzel.fed_nil (g : Goertzel) : g.fed [] = g := by simp [Goertzel.fed, GzBin.run]

theorem Goertzel.fed_append (g : Goertzel) (xs ys : List Cpx) : g.fed (xs ++ ys) = (g.fed xs).fed ys := by
  by_cases hmode : g.mode = .threeTone <;> simp [Goertzel.fed, GzBin.run, hmode, Nat.add_assoc]

theorem gzAccumulate_eq_fed (g : Goertzel) (z : Cpx) :
    { gzAccumulate g (gzSelect g.insel z) with cnt := g.cnt + 1 } = g.fed [z] := by
  cases hmode : g.mode <;> simp [gzAccumulate, Goertzel.fed, GzBin.run, hmode]

/-- One sample is counted, and ends the bin where it fills it (R396). -/
theorem gzStep_eq (g : Goertzel) (z : Cpx) :
    gzStep g z =
      if g.cnt + 1 = g.nbin then ((gzBinEnd (g.fed [z])).1, some (gzBinEnd (g.fed [z])).2) else (g.fed [z], none) := by
  have hkeeps := gzAccumulate_keeps g (gzSelect g.insel z)
  rw [gzStep, hkeeps.cnt, gzAccumulate_eq_fed]
  rfl

theorem gzRun_of_inside {g : Goertzel} {xs : List Cpx} (h : g.cnt + xs.length < g.nbin) :
    gzRun g xs = (g.fed xs, []) := by
  induction xs generalizing g with
  | nil => rw [gzRun, g.fed_nil]
  | cons z zs ih =>
    rw [List.length_cons] at h
    have hrest : (g.fed [z]).cnt + zs.length < (g.fed [z]).nbin := by
      simp only [Goertzel.fed, List.length_singleton]
      omega
    rw [gzRun, gzStep_eq, if_neg (by omega), ih hrest, ← g.fed_append]
    rfl

theorem gzRun_of_end {g : Goertzel} {xs : List Cpx} (h : g.cnt + xs.length = g.nbin) (hne : xs ≠ []) :
    gzRun g xs = ((gzBinEnd (g.fed xs)).1, [(gzBinEnd (g.fed xs)).2]) := by
  obtain ⟨ys, z, rfl⟩ := (List.eq_nil_or_concat' xs).resolve_left hne
  rw [List.length_append, List.length_singleton] at h
  have hlast : (g.fed ys).cnt + 1 = (g.fed ys).nbin := (Nat.add_assoc ..).trans h
  have hone : gzRun (g.fed ys) [z] =
      ((gzBinEnd (g.fed (ys ++ [z]))).1, [(gzBinEnd (g.fed (ys ++ [z]))).2]) := by
    rw [gzRun, gzStep_eq, if_pos hlast, g.fed_append]
    rfl
  rw [gzRun_append, gzRun_of_inside (xs := ys) (by omega), hone]
  rfl

theorem GzBin.run_coeff (insel : GzInput) (b : GzBin) (xs : List Cpx) : (b.run insel xs).coeff = b.coeff := by
  induction xs generalizing b with
  | nil => rfl
  | cons z zs ih => exact ih (binStep b (gzSelect insel z))

theorem offPower_eq (g : Goertzel) (b : GzBin) : offPower g b = if g.mode = .threeTone then binPower b else 0#64 := by
  cases hmode : g.mode <;> simp [offPower, hmode, fZero]

theorem gzResetBins_fed (g : Goertzel) (xs : List Cpx) :
    gzResetBins (g.fed xs) =
      { g with
        bin0 := ⟨g.bin0.coeff, 0#64, 0#64⟩
        bin1 := if g.mode = .threeTone then ⟨g.bin1.coeff, 0#64, 0#64⟩ else g.bin1
        bin2 := if g.mode = .threeTone then ⟨g.bin2.coeff, 0#64, 0#64⟩ else g.bin2
        cnt := 0 } := by
  cases hmode : g.mode <;> simp [gzResetBins, Goertzel.fed, binReset, GzBin.run_coeff, hmode, fZero]

/-- The powers and the record at the end of a bin (R392, R396). -/
theorem gzBinEnd_fed (g : Goertzel) (xs : List Cpx) :
    gzBinEnd (g.fed xs) =
      (let pc := binPower (g.bin0.run g.insel xs)
       let plo := if g.mode = .threeTone then binPower (g.bin1.run g.insel xs) else 0#64
       let phi := if g.mode = .threeTone then binPower (g.bin2.run g.insel xs) else 0#64
       let g' := detect (gzResetBins (g.fed xs)) pc plo phi
       (g', ⟨pc, plo, phi, g'.bit⟩)) := by
  by_cases hmode : g.mode = .threeTone <;> simp [gzBinEnd, offPower_eq, Goertzel.fed, hmode]

/-- Settles O56: the samples inside a bin, then the one that ends it. -/
theorem goertzelBins : Obligations.GoertzelBins := by
  unfold Obligations.GoertzelBins
  intro g xs
  refine ⟨fun hinside => gzRun_of_inside hinside, fun hend hne => ?_⟩
  refine (gzRun_of_end hend hne).trans ?_
  rw [gzBinEnd_fed, gzResetBins_fed]
  rfl

/-! ## GZ.RUN (R396) -/

/-- A detector inside its bin makes one record for each bin the samples complete, and counts on modulo its size. -/
theorem gzRun_counts {g : Goertzel} (h : g.cnt < g.nbin) (xs : List Cpx) :
    (gzRun g xs).2.length = (g.cnt + xs.length) / g.nbin ∧ (gzRun g xs).1.cnt = (g.cnt + xs.length) % g.nbin := by
  induction xs generalizing g with
  | nil => exact ⟨(Nat.div_eq_of_lt h).symm, (Nat.mod_eq_of_lt h).symm⟩
  | cons z zs ih =>
    rw [gzRun, gzStep_eq]
    split
    · next hend =>
      have hkeeps := gzBinEnd_keeps (g.fed [z])
      have hnbin : (gzBinEnd (g.fed [z])).1.nbin = g.nbin := hkeeps.nbin
      have hcnt : (gzBinEnd (g.fed [z])).1.cnt = 0 := hkeeps.cnt
      obtain ⟨hlen, hcount⟩ := ih (g := (gzBinEnd (g.fed [z])).1) (by omega)
      have hsum : g.cnt + (z :: zs).length = zs.length + g.nbin := by rw [List.length_cons]; omega
      rw [hnbin, hcnt, Nat.zero_add] at hlen hcount
      rw [hsum, Nat.add_div_right _ (by omega), Nat.add_mod_right]
      exact ⟨by simp [hlen], hcount⟩
    · next hinside =>
      have hsum : g.cnt + (z :: zs).length = (g.fed [z]).cnt + zs.length := by
        simp only [Goertzel.fed, List.length_cons, List.length_nil]; omega
      rw [hsum]
      exact ih (g := g.fed [z]) (lt_of_le_of_ne h hinside)

theorem onlyGz_of_units {s t : State} {j : Nat} {g : Goertzel} (h : SameUnits (s.setGz j g) t) : OnlyGz j s t where
  others k hk := (h.gzAt k).trans (gzAt_setGz_ne s g hk)
  dl := h.dl
  hb := h.hb
  ch := h.ch
  fir := h.fir
  iir := h.iir
  nco := h.nco

/-- What a command leaves that writes detector `j`, stores records at `d` and reports their count (R202, R396). -/
theorem storeRecords_completes {s : State} {cs : List Check} {j : Nat} (g : Goertzel) (d : Word) (rs : List GzRecord)
    (q : Nat) (hj : j < Config.gzUnits) (hok : ∀ c ∈ cs, c.ok = true) :
    ∃ t, command s cs (((s.setGz j g).setDmem (writeGzRecords s.dmem d.toNat rs)).setCount q) = .next t ∧
      t.gzAt j = g ∧ t.dmem = writeGzRecords s.dmem d.toNat rs ∧ t.lastCount = BitVec.ofNat 32 q ∧ OnlyGz j s t ∧
      Completed s t := by
  have hwrites := ((WritesOnly.apply (.gz j g) s).setDmem (writeGzRecords s.dmem d.toNat rs)).setCount q
  exact ⟨_, command_of_ok hok, gzAt_setGz_same s j g hj, rfl, rfl, onlyGz_of_units { hwrites.units with },
    hwrites.completed⟩

theorem gzRunChecks_ok {s : State} {u : Nib} {a d : Word} {n q : Nat} (hu : u.toNat < Config.gzUnits)
    (hcfg : (s.gzAt u.toNat).cfg = true) (ha : LegalCpxs a n) (hd : LegalRegion d q 32 8) :
    ∀ c ∈ [unitCheck u Config.gzUnits, cfgCheck (s.gzAt u.toNat).cfg .gz u.toNat] ++
      regionChecks [cpxRegion a n, rec32Region d q], c.ok = true :=
  List.forall_mem_append.mpr ⟨by simp [hu, hcfg],
    regionChecks_ok (by simpa using ⟨(cpxRegion_ok_iff a _).mpr ha, (rec32Region_ok_iff d _).mpr hd⟩)⟩

/-- Settles O55: the count the region is checked with is that of the records stored. -/
theorem goertzelRun : Obligations.GoertzelRun := by
  unfold Obligations.GoertzelRun
  intro s u a d n hwf hu hcfg hcnt ha hd
  obtain ⟨hlen, hcount⟩ := gzRun_counts hcnt (readCpxs s.dmem a.toNat n.toNat)
  rw [readCpxs_length] at hlen hcount
  obtain ⟨t, ht, hgz, hdmem, hlast, honly, hdone⟩ := storeRecords_completes _ d
    (gzRun (s.gzAt u.toNat) (readCpxs s.dmem a.toNat n.toNat)).2 _ hu (gzRunChecks_ok hu hcfg ha hd)
  refine ⟨t, ht, ⟨hlen, hgz, hcount, fun k hk => ?_, fun x hx => ?_, hlast⟩, honly, hdone⟩
  · rw [hdmem]
    exact read_writeGzRecords hwf d.toNat _ hk
  · rw [hdmem, readByte_writeGzRecords_outside hwf (by rwa [hlen])]

/-! ## GZ.CFG (R390, R395) -/

/-- Settles O54: past its checks GZ.CFG writes the detector of R395. -/
theorem goertzelConfigure : Obligations.GoertzelConfigure := by
  unfold Obligations.GoertzelConfigure
  intro s u mode n m p k0 k1 k2 hu hmode hn hp hk0 hk1 hpos hratio hweight
  obtain ⟨hunits, hdmem, hdone, hcount⟩ :=
    complete_unitWrite s (.gz u.toNat (configuredGoertzel mode n m p k0 k1 k2))
  have hat := (hunits.gzAt u.toNat).trans (gzAt_setGz_same s _ (configuredGoertzel mode n m p k0 k1 k2) hu)
  refine ⟨_, command_of_ok ?_, ?_, onlyGz_of_units hunits, hdmem, hdone, hcount⟩
  · have hpositive : n.toNat ≠ 0 := fun h => hn (BitVec.eq_of_toNat_eq h)
    simpa [hu, hmode, hpositive, hp, hk0, hk1, hpos, ← imp_iff_not_or] using ⟨hratio, hweight⟩
  · rw [UnitWrite.apply] at hat
    rw [hat]
    exact ⟨rfl, rfl, rfl, rfl, rfl, rfl, rfl, rfl, rfl, rfl, rfl, rfl, rfl, ⟨rfl, rfl⟩, rfl⟩

/-! ## The detectors (R394) -/

theorem detect_of_single {g : Goertzel} (hmode : g.mode = .single) (pc plo phi : F64) :
    detect g pc plo phi = { g with bit := false } := by
  rw [detect, hmode]

theorem detect_of_threeTone {g : Goertzel} (hmode : g.mode = .threeTone) (pc plo phi : F64) :
    detect g pc plo phi = threeTone g pc plo phi := by
  rw [detect, hmode]

theorem detect_of_adaptive {g : Goertzel} (hmode : g.mode = .adaptive) (pc plo phi : F64) :
    detect g pc plo phi = adaptive g pc := by
  rw [detect, hmode]

/-- The decision of the three-tone detector on one bin. -/
def toneDecision (g : Goertzel) (pc plo phi : F64) : Bool := flt (fmul g.k (fdiv (fadd plo phi) fTwo)) pc

theorem threeTone_of_agreement {g : Goertzel} {pc plo phi : F64} (h : toneDecision g pc plo phi = g.bit) :
    threeTone g pc plo phi = { g with dcnt := 0 } :=
  if_neg (by simpa [toneDecision] using h)

theorem threeTone_of_contradiction {g : Goertzel} {pc plo phi : F64} (h : toneDecision g pc plo phi ≠ g.bit) :
    threeTone g pc plo phi =
      if max g.lim 1 ≤ saturatingSucc g.dcnt then { g with bit := !g.bit, dcnt := 0 }
      else { g with dcnt := saturatingSucc g.dcnt } := by
  rw [← Bool.eq_not_of_ne h]
  exact if_pos (by simpa [toneDecision] using h)

/-- The adaptive detector, its three outcomes. -/
theorem adaptive_eq (g : Goertzel) (pc : F64) :
    adaptive g pc =
      if flt g.thr pc ≠ g.bit then { adaptAverages g pc with bit := flt g.thr pc, quiet := 0 }
      else if g.lim ≠ 0 ∧ g.lim ≤ saturatingSucc g.quiet then
        { adaptAverages g pc with thr := fdiv (adaptAverages g pc).thr fTwo, quiet := 0 }
      else { adaptAverages g pc with quiet := saturatingSucc g.quiet } := by
  simp [adaptive]

/-! ## The debounce (R394) -/

section
variable {g : Goertzel} {pc plo phi : F64} {ps : List (F64 × F64 × F64)}

/-- A limit of 32 bits is reached before the counter stops. -/
theorem saturatingSucc_of_le (hlim : g.lim < 2 ^ 32) (h : g.dcnt + 1 ≤ max g.lim 1) :
    saturatingSucc g.dcnt = g.dcnt + 1 :=
  Nat.min_eq_left (by omega)

theorem detect_counts (hmode : g.mode = .threeTone) (hlim : g.lim < 2 ^ 32) (hbit : toneDecision g pc plo phi ≠ g.bit)
    (h : g.dcnt + 1 < max g.lim 1) : detect g pc plo phi = { g with dcnt := g.dcnt + 1 } := by
  rw [detect_of_threeTone hmode, threeTone_of_contradiction hbit, saturatingSucc_of_le hlim h.le, if_neg h.not_ge]

theorem detect_flips (hmode : g.mode = .threeTone) (hlim : g.lim < 2 ^ 32) (hbit : toneDecision g pc plo phi ≠ g.bit)
    (h : g.dcnt + 1 = max g.lim 1) : detect g pc plo phi = { g with bit := !g.bit, dcnt := 0 } := by
  rw [detect_of_threeTone hmode, threeTone_of_contradiction hbit, saturatingSucc_of_le hlim h.le, if_pos h.ge]

/-- The detector over a run of bins, each with its three powers. -/
def detectAll (g : Goertzel) (ps : List (F64 × F64 × F64)) : Goertzel :=
  ps.foldl (fun g p => detect g p.1 p.2.1 p.2.2) g

theorem detectAll_concat (g : Goertzel) (ps : List (F64 × F64 × F64)) (p : F64 × F64 × F64) :
    detectAll g (ps ++ [p]) = detect (detectAll g ps) p.1 p.2.1 p.2.2 :=
  List.foldl_concat ..

/-- Bins that contradict the bit, fewer than `max(lim, 1)` in a row, are counted. -/
theorem detectAll_counts (hmode : g.mode = .threeTone) (hlim : g.lim < 2 ^ 32)
    (hbits : ∀ p ∈ ps, toneDecision g p.1 p.2.1 p.2.2 ≠ g.bit) (h : g.dcnt + ps.length < max g.lim 1) :
    detectAll g ps = { g with dcnt := g.dcnt + ps.length } := by
  induction ps using List.reverseRecOn with
  | nil => rfl
  | append_singleton qs p ih =>
    obtain ⟨hqs, hp⟩ := List.forall_mem_append.mp hbits
    rw [List.length_append, List.length_singleton] at h ⊢
    rw [detectAll_concat, ih hqs (by omega)]
    exact detect_counts hmode hlim (hp p List.mem_cons_self) h

/-- The one that reaches `max(lim, 1)` flips the bit. -/
theorem detectAll_flips (hmode : g.mode = .threeTone) (hlim : g.lim < 2 ^ 32)
    (hbits : ∀ p ∈ ps, toneDecision g p.1 p.2.1 p.2.2 ≠ g.bit) (hne : ps ≠ [])
    (h : g.dcnt + ps.length = max g.lim 1) : detectAll g ps = { g with bit := !g.bit, dcnt := 0 } := by
  obtain ⟨qs, p, rfl⟩ := (List.eq_nil_or_concat' ps).resolve_left hne
  obtain ⟨hqs, hp⟩ := List.forall_mem_append.mp hbits
  rw [List.length_append, List.length_singleton] at h
  rw [detectAll_concat, detectAll_counts hmode hlim hqs (by omega)]
  exact detect_flips hmode hlim (hp p List.mem_cons_self) h

end

/-- Settles O57: the three detectors, then the debounce. -/
theorem goertzelDetectors : Obligations.GoertzelDetectors := by
  unfold Obligations.GoertzelDetectors
  refine ⟨fun g pc plo phi => ⟨fun hmode => detect_of_single hmode pc plo phi, fun hmode => ?_, fun hmode => ?_⟩,
    fun g ps hmode hzero hlim hbits => ⟨fun hfewer => ?_, fun hlimit => ?_⟩⟩
  · rw [detect_of_threeTone hmode]
    by_cases hbit : toneDecision g pc plo phi = g.bit
    · rw [threeTone_of_agreement hbit]
      exact (if_pos hbit).symm
    · rw [threeTone_of_contradiction hbit, ← Bool.eq_not_of_ne hbit]
      exact (if_neg hbit).symm
  · rw [detect_of_adaptive hmode, adaptive_eq]
    rfl
  · have hcounts := detectAll_counts hmode hlim hbits (by omega)
    rwa [hzero, Nat.zero_add] at hcounts
  · exact detectAll_flips hmode hlim hbits (List.ne_nil_of_length_pos (by omega)) (by omega)

end Sys2Proof.Machine
end

section
/-! PROOFS. The NCO mixer (spec/48_nco.md): the phase and the outputs of a run R421, and the commands R422-R424. -/

namespace Sys2Proof.Machine

/-! ## The phase NCO.CFG stores (R422) -/

/-- A value other than zero is fixed by its units of 2^-1074. -/
theorem eq_of_intUnits_eq {x y : F64} (h : intUnits x = intUnits y) (hne : isZero y = false) : x = y := by
  have hkey : orderKey x = orderKey y :=
    le_antisymm ((orderKey_le_iff x y).mpr h.le) ((orderKey_le_iff y x).mpr h.ge)
  exact eq_of_orderKey_eq hkey fun hzero => Bool.eq_false_iff.mp hne (orderKey_eq_zero_iff.mp hzero)

/-- Adding `+0.0` is exact, and clears the sign of a zero. -/
theorem fadd_fZero {x : F64} (hx : isFinite x = true) : fadd x fZero = if isZero x then 0#64 else x := by
  cases hzero : isZero x with
  | true => rcases eq_of_isZero hzero with rfl | rfl <;> decide
  | false =>
    have hexact := (fadd_rounded hx isFinite_fZero).exact Nat.one_pos hx (by simp)
    exact eq_of_intUnits_eq hexact.2 hzero

theorem isFinite_of_phase {x : F64} (hlo : fle fZero x = true) (hhi : flt x Config.twoPi = true) :
    isFinite x = true := by
  obtain ⟨hx, hturn, hlt⟩ := (flt_iff x Config.twoPi).mp hhi
  exact ((isPhase_iff x).mp ⟨hlo, (fle_iff x Config.twoPi).mpr ⟨hx, hturn, hlt.le⟩⟩).1

/-! ## A run of the mixer (R421, R424) -/

/-- The phase advanced `k` times. -/
def phaseAfter (inc phase : F64) (k : Nat) : F64 := (List.range k).foldl (fun φ _ => advancePhase φ inc) phase

theorem phaseAfter_succ (inc phase : F64) (k : Nat) :
    phaseAfter inc phase (k + 1) = phaseAfter inc (advancePhase phase inc) k := by
  simp only [phaseAfter, List.foldl_const (advancePhase · inc), List.length_range, Function.iterate_succ_apply]

theorem mixRun_fst (inc phase : F64) (xs : List Cpx) : (mixRun inc phase xs).1 = phaseAfter inc phase xs.length := by
  induction xs generalizing phase with
  | nil => rfl
  | cons z zs ih => rw [mixRun, ih, List.length_cons, phaseAfter_succ]

/-- Output `k` is sample `k` mixed at the phase advanced `k` times. -/
theorem mixRun_snd_getElem? (inc phase : F64) (xs : List Cpx) (k : Nat) :
    (mixRun inc phase xs).2[k]? = xs[k]?.map fun z => cmul z (oscillator (phaseAfter inc phase k)) := by
  induction xs generalizing phase k with
  | nil => rfl
  | cons z zs ih =>
    cases k with
    | zero => rfl
    | succ k => rw [mixRun, List.getElem?_cons_succ, List.getElem?_cons_succ, ih, phaseAfter_succ]

/-! ## The commands (R422-R424) -/

theorem onlyNco_of_units {s t : State} {j : Nat} {o : Nco} (h : SameUnits (s.setNco j o) t) : OnlyNco j s t where
  others k hk := (h.ncoAt k).trans (ncoAt_setNco_ne s o hk)
  dl := h.dl
  hb := h.hb
  ch := h.ch
  fir := h.fir
  iir := h.iir
  gz := h.gz

section
variable {s : State} {u : Nib}

theorem ncoChecks_ok (hu : u.toNat < Config.ncoUnits) (hcfg : (s.ncoAt u.toNat).cfg = true) :
    ∀ c ∈ ncoChecks u s, c.ok = true := by
  simp [ncoChecks, hu, hcfg]

/-- What a command leaves whose effect is to write mixer `u` (R202). -/
theorem setNco_completes {cs : List Check} (o : Nco) (hu : u.toNat < Config.ncoUnits) (hok : ∀ c ∈ cs, c.ok = true) :
    ∃ t, command s cs (s.setNco u.toNat o) = .next t ∧ t.ncoAt u.toNat = o ∧ OnlyNco u.toNat s t ∧ KeptDmem s t ∧
      Completed s t ∧ t.lastCount = s.lastCount := by
  obtain ⟨hunits, hdmem, hdone, hcount⟩ := complete_unitWrite s (.nco u.toNat o)
  exact ⟨_, command_of_ok hok, (hunits.ncoAt _).trans (ncoAt_setNco_same s _ o hu), onlyNco_of_units hunits, hdmem,
    hdone, hcount⟩

theorem ncoMix_completes {a d n : Word} (hwf : s.dmem.wf = true) (hu : u.toNat < Config.ncoUnits)
    (hcfg : (s.ncoAt u.toNat).cfg = true) (ha : LegalCpxs a n.toNat) (hd : LegalCpxs d n.toNat) :
    let o := s.ncoAt u.toNat
    ∃ t, exec (.ncoMix u a d n) s = .next t ∧
      (∀ k < n.toNat, rdC t.dmem (d.toNat + 16 * k) =
        cmul (rdC s.dmem (a.toNat + 16 * k)) (oscillator (phaseAfter o.inc o.phase k))) ∧
      t.ncoAt u.toNat = { o with phase := phaseAfter o.inc o.phase n.toNat } ∧
      KeptOutside s t d.toNat (16 * n.toNat) ∧ OnlyNco u.toNat s t ∧ Completed s t ∧ t.lastCount = s.lastCount := by
  have hlen := readCpxs_length s.dmem a.toNat n.toNat
  have hregions := regionChecks_ok (rs := [cpxRegion a n.toNat, cpxRegion d n.toNat])
    (by simpa using ⟨(cpxRegion_ok_iff a _).mpr ha, (cpxRegion_ok_iff d _).mpr hd⟩)
  intro o
  obtain ⟨t, ht, hunits, hread, hkept, hdone, hcount⟩ := storeUnit_completes
    (.nco u.toNat { o with phase := (mixRun o.inc o.phase (readCpxs s.dmem a.toNat n.toNat)).1 }) d hwf
    ((mixRun_length o.inc o.phase (readCpxs s.dmem a.toNat n.toNat)).trans hlen)
    (List.forall_mem_append.mpr ⟨ncoChecks_ok hu hcfg, hregions⟩)
  rw [UnitWrite.apply] at hunits
  refine ⟨t, ht, fun k hk => rdC_eq_of_readCpxs hread hk ?_, ?_, hkept, onlyNco_of_units hunits, hdone, hcount⟩
  · rw [mixRun_snd_getElem?, List.getElem?_eq_getElem (by rwa [hlen]), readCpxs_getElem, Option.map_some]
  · rw [hunits.ncoAt, ncoAt_setNco_same _ _ _ hu, mixRun_fst, hlen]

end

/-- Settles O58, command by command. -/
theorem ncoCommands : Obligations.NcoCommands := by
  unfold Obligations.NcoCommands
  intro s u hwf hu
  refine ⟨fun k0 k1 k2 hfin hpos hk0 hlo hhi hge hlt => ?_, fun hcfg => ⟨fun k0 hk0 hlo hhi => ?_,
    fun a d n ha hd => ?_⟩⟩
  · rw [← fadd_fZero (isFinite_of_phase hge hlt)]
    exact setNco_completes _ hu (by simp [hu, hfin, hpos, freqOk, hk0, hlo, hhi, hge, hlt])
  · exact setNco_completes _ hu
      (List.forall_mem_append.mpr ⟨ncoChecks_ok hu hcfg, by simp [freqOk, hk0, hlo, hhi]⟩)
  · obtain ⟨t, ht, hout, hphase, hkept, honly, hdone, hcount⟩ := ncoMix_completes hwf hu hcfg ha hd
    exact ⟨t, ht, ⟨hout, hphase⟩, hkept, honly, hdone, hcount⟩

end Sys2Proof.Machine
end
